-- ==== Sys2Proof/Word.lean ====
section
/-! DEFINITION. The word types of EP2C-HASH (00_scope.md R7): bytes, 32-bit words and 64-bit lanes, all unsigned. -/

namespace Sys2Proof

/-- `u8` of R7: a byte of the message, of a digest or of a hex string. -/
abbrev Byte := BitVec 8

/-- `u32` of R7: the host bus word, every register, and the SHA-256 word. Its `+` wraps modulo 2^32 (R8). -/
abbrev Word := BitVec 32

/-- `u64` of R7: a Keccak lane. -/
abbrev Lane := BitVec 64

/-- `Bytes` of R7: a finite sequence of bytes. -/
abbrev Bytes := List Byte

/-- A Digest (00_scope.md section 5): 32 bytes, byte 0 first. -/
abbrev Digest := Vector Byte 32

/-- The 64 characters of a HexString, without its terminator (10_state.md R33). -/
abbrev HexChars := Vector Byte 64

/-- The 25 lanes of the Keccak state; lane `A[x][y]` has index `x + 5y` (42_sha3_256.md R161). -/
abbrev Lanes := Vector Lane 25

end Sys2Proof
end

