-- ==== Sys2Proof/Syntax.lean ====
section
/-! DEFINITION. The commands of EP2C-HASH (30_encoding.md R83), one constructor per row of opcode_table.json, and the
kinds of error a command can end with (60_exceptions.md R250). -/

namespace Sys2Proof

/-- A command (30_encoding.md R83). `srcv` is "input present" (R82, 40_normalizer.md R100).
`tag` is the number in the ALG field, "an unsigned tag 0..255" (R82); only DIGEST has one. -/
inductive Instr where
  /-- OP = 0x1, the Dispatch Facade (44_dispatch.md R230). -/
  | digest (srcv : Bool) (tag : Nat)
  /-- OP = 0x2, the SHA-256 engine (41_sha256.md R140). -/
  | sha256 (srcv : Bool)
  /-- OP = 0x3, the SHA3-256 engine (42_sha3_256.md R178). -/
  | sha3_256 (srcv : Bool)
  /-- OP = 0x4, the hex encoder (43_hex_encoder.md R204). -/
  | hexenc
  deriving DecidableEq, Repr

/-- The error kinds of 60_exceptions.md R250. -/
inductive CmdError where
  /-- R251: SRCV = 0. -/
  | invalidInput
  /-- R252: ALG is not one of the two tags. -/
  | unsupportedAlgorithm
  /-- R255: reserved for an incremental API, "never produced". -/
  | alreadyFinalized
  /-- R253: LEN_L > MSG_BUF_BYTES. -/
  | lengthOutOfRange
  /-- R254: the word does not decode. -/
  | illegalCommand
  deriving DecidableEq, Repr

/-- The code of an error kind in STATUS.ERR (R250). -/
def CmdError.code : CmdError → BitVec 4
  | .invalidInput => 1
  | .unsupportedAlgorithm => 2
  | .alreadyFinalized => 3
  | .lengthOutOfRange => 4
  | .illegalCommand => 5

/-- AlgorithmTag 0x00 (30_encoding.md R86). -/
def tagSha256 : Nat := 0

/-- AlgorithmTag 0x01 (30_encoding.md R86). -/
def tagSha3_256 : Nat := 1

/-- "exactly these two values are valid" (30_encoding.md R86). -/
def validTag (tag : Nat) : Bool := tag == tagSha256 || tag == tagSha3_256

end Sys2Proof
end

