-- ==== Sys2Proof/WellFormed.lean ====
section
/-! DEFINITION. Which instruction terms stand for a command word: the operands that the encoding admits
(30_encoding.md R82, R89). -/

namespace Sys2Proof

/-- ALG is an 8-bit field, so a tag is "a number 0..255" (30_encoding.md R89). SRCV is one bit and needs no check. -/
def Instr.wellFormed : Instr → Bool
  | .digest _ tag => decide (tag < 256)
  | .sha256 _ => true
  | .sha3_256 _ => true
  | .hexenc => true

end Sys2Proof
end

