-- ==== Sys2Proof/Decode.lean ====
section
/-! DEFINITION. The command word (30_encoding.md R80 to R90): its fields, the opcode table, the decoder that is total on
all 2^32 words, and the assembler. -/

namespace Sys2Proof

/-! ### Fields (R81) -/

/-- OP, bits [3:0]. -/
def fieldOp (c : Word) : BitVec 4 := c.extractLsb' 0 4

/-- RSV0, bits [7:4]. -/
def fieldRsv0 (c : Word) : BitVec 4 := c.extractLsb' 4 4

/-- SRCV, bit [8]. -/
def fieldSrcv (c : Word) : Bool := c.getLsbD 8

/-- RSV1, bits [15:9]. -/
def fieldRsv1 (c : Word) : BitVec 7 := c.extractLsb' 9 7

/-- ALG, bits [23:16]. -/
def fieldAlg (c : Word) : BitVec 8 := c.extractLsb' 16 8

/-- RSV2, bits [31:24]. -/
def fieldRsv2 (c : Word) : BitVec 8 := c.extractLsb' 24 8

/-! ### The opcode map (R84) -/

/-- One row of the opcode map: a word is legal for the row when `c &&& mask = pattern`. -/
structure OpRow where
  mnemonic : String
  pattern : Word
  mask : Word
  deriving DecidableEq, Repr

/-- Does the word match the row? -/
def OpRow.holds (r : OpRow) (c : Word) : Bool := c &&& r.mask == r.pattern

def rowDigest : OpRow := ⟨"DIGEST", 0x00000001, 0xFF00FEFF⟩
def rowSha256 : OpRow := ⟨"SHA256", 0x00000002, 0xFFFFFEFF⟩
def rowSha3_256 : OpRow := ⟨"SHA3_256", 0x00000003, 0xFFFFFEFF⟩
def rowHexenc : OpRow := ⟨"HEXENC", 0x00000004, 0xFFFFFFFF⟩

/-- The four rows of R84, in its order. -/
def opTable : List OpRow := [rowDigest, rowSha256, rowSha3_256, rowHexenc]

/-! ### The decoder (R85) -/

/-- `Decode(c)` of R85; ILLEGAL is the error IllegalCommand (R87). -/
def decode (c : Word) : Except CmdError Instr :=
  if rowDigest.holds c then .ok (.digest (fieldSrcv c) (fieldAlg c).toNat)
  else if rowSha256.holds c then .ok (.sha256 (fieldSrcv c))
  else if rowSha3_256.holds c then .ok (.sha3_256 (fieldSrcv c))
  else if rowHexenc.holds c then .ok .hexenc
  else .error .illegalCommand

/-- The instruction a table word of `nbits` bits stands for. A command has one word of 32 bits (R88); bits above `nbits`
are 0. -/
def decodeTableWord (nbits w : Nat) : Option Instr :=
  (decode (BitVec.ofNat 32 (w % 2 ^ nbits))).toOption

/-! ### The assembler (R89) -/

/-- `src` as a number. -/
def srcBit (srcv : Bool) : Word := if srcv then 1 else 0

/-- The assembled word of R89. -/
def encode : Instr → Word
  | .digest srcv tag => BitVec.ofNat 32 tag <<< 16 ||| srcBit srcv <<< 8 ||| 0x1
  | .sha256 srcv => srcBit srcv <<< 8 ||| 0x2
  | .sha3_256 srcv => srcBit srcv <<< 8 ||| 0x3
  | .hexenc => 0x00000004

/-- The row of the opcode map that an instruction belongs to (R83). -/
def Instr.row : Instr → OpRow
  | .digest _ _ => rowDigest
  | .sha256 _ => rowSha256
  | .sha3_256 _ => rowSha3_256
  | .hexenc => rowHexenc

/-- The instructions that the pseudo-commands of R90 expand to. -/
def pseudoDigestSha256 : Instr := .digest true tagSha256
def pseudoDigestSha3_256 : Instr := .digest true tagSha3_256
def pseudoDigestSha256Null : Instr := .digest false tagSha256
def pseudoDigestSha3_256Null : Instr := .digest false tagSha3_256
def pseudoSha256 : Instr := .sha256 true
def pseudoSha3_256 : Instr := .sha3_256 true

end Sys2Proof
end

