-- ==== Sys2Proof/Machine/Bits.lean ====
section
/-! DEFINITION. The bitwise primitives and byte-to-word conversions of 00_scope.md R9 and R10, once for every user. -/

namespace Sys2Proof.Machine

/-- `ROTR_N(x, n)` of R9. -/
def rotr {N : Nat} (x : BitVec N) (n : Nat) : BitVec N := if n = 0 then x else (x >>> n) ||| (x <<< (N - n))

/-- `ROTL_N(x, n)` of R9; `ROTL_N(x, 0) = x`, with no shift by N. -/
def rotl {N : Nat} (x : BitVec N) (n : Nat) : BitVec N := if n = 0 then x else (x <<< n) ||| (x >>> (N - n))

/-- `SHR_N(x, n)` of R9: a logical shift, filling with zeros. -/
def shr {N : Nat} (x : BitVec N) (n : Nat) : BitVec N := x >>> n

/-- Byte `q` of a value, least significant first. -/
def byteOf {N : Nat} (v : BitVec N) (q : Nat) : Byte := v.extractLsb' (8 * q) 8

/-- `BE32` of R10. -/
def be32 (b0 b1 b2 b3 : Byte) : Word :=
  b0.setWidth 32 <<< 24 ||| b1.setWidth 32 <<< 16 ||| b2.setWidth 32 <<< 8 ||| b3.setWidth 32

/-- `BE32bytes` of R10: 4 bytes, most significant first. -/
def be32Bytes (w : Word) : Bytes := [byteOf w 3, byteOf w 2, byteOf w 1, byteOf w 0]

/-- `BE64bytes` of R10: 8 bytes, most significant first. -/
def be64Bytes (v : Lane) : Bytes :=
  [byteOf v 7, byteOf v 6, byteOf v 5, byteOf v 4, byteOf v 3, byteOf v 2, byteOf v 1, byteOf v 0]

/-- `LE32` of R10. -/
def le32 (b0 b1 b2 b3 : Byte) : Word :=
  b0.setWidth 32 ||| b1.setWidth 32 <<< 8 ||| b2.setWidth 32 <<< 16 ||| b3.setWidth 32 <<< 24

/-- `LE32bytes` of R10. -/
def le32Bytes (w : Word) : Bytes := [byteOf w 0, byteOf w 1, byteOf w 2, byteOf w 3]

/-- `LE64` of R10. -/
def le64 (b0 b1 b2 b3 b4 b5 b6 b7 : Byte) : Lane :=
  b0.setWidth 64 ||| b1.setWidth 64 <<< 8 ||| b2.setWidth 64 <<< 16 ||| b3.setWidth 64 <<< 24 |||
  b4.setWidth 64 <<< 32 ||| b5.setWidth 64 <<< 40 ||| b6.setWidth 64 <<< 48 ||| b7.setWidth 64 <<< 56

/-- `LE64bytes` of R10: 8 bytes, least significant first. -/
def le64Bytes (v : Lane) : Bytes :=
  [byteOf v 0, byteOf v 1, byteOf v 2, byteOf v 3, byteOf v 4, byteOf v 5, byteOf v 6, byteOf v 7]

/-- Byte `i` of a sequence; every index the model uses lies inside it. -/
def byteAt (m : Bytes) (i : Nat) : Byte := m.getD i 0

/-- `m[i .. j)` of R7. -/
def slice (m : Bytes) (i j : Nat) : Bytes := (m.drop i).take (j - i)

/-- The array of `n` elements whose element `i` is `f i`. -/
def arrayOf {α : Type} (n : Nat) (f : Nat → α) : Vector α n := ⟨((List.range n).map f).toArray, by simp⟩

/-- Element `i` of an array; every index the model uses lies inside it. -/
def nth {w n : Nat} (v : Vector (BitVec w) n) (i : Nat) : BitVec w := v.toList.getD i 0

/-- A sequence of `n` bytes as an array of `n` bytes. -/
def bytesToVector (n : Nat) (m : Bytes) : Vector Byte n := arrayOf n (byteAt m)

end Sys2Proof.Machine
end

