-- ==== Sys2Proof/Machine/EngineRegs.lean ====
section
/-! DEFINITION. The engines' register files and working state (10_state.md R35, R38, R39): plain data, no host address. -/

namespace Sys2Proof.Machine

/-- Eight u32 words: the SHA-256 hash state `H[0..7]` and the working variables `a .. h`, in that order (R38). -/
structure EightWords where
  a : Word
  b : Word
  c : Word
  d : Word
  e : Word
  f : Word
  g : Word
  h : Word
  deriving DecidableEq, Repr

/-- The SHA-256 engine's working state, as an iterative engine holds it (10_state.md R38). -/
structure Sha256Regs where
  /-- The hash state `H[0..7]`. -/
  hash : EightWords
  /-- The working variables `a .. h`. -/
  vars : EightWords
  /-- The message schedule `W[0..63]`. -/
  sched : Vector Word 64
  /-- The block index `i`. -/
  blockIndex : Nat
  /-- The round index `t`. -/
  roundIndex : Nat
  /-- The BlockBuffer: the current padded block. -/
  block : Vector Byte 64
  deriving DecidableEq, Repr

/-- The SHA3-256 engine's working state (10_state.md R39). -/
structure KeccakRegs where
  /-- The lanes `A[x][y]`. -/
  lanes : Lanes
  /-- The BlockBuffer: the current padded block. -/
  block : Vector Byte 136
  /-- The block index `j`. -/
  blockIndex : Nat
  /-- The round index `ir`. -/
  roundIndex : Nat
  deriving DecidableEq, Repr

/-- Eight zero words. -/
def EightWords.zero : EightWords := ⟨0, 0, 0, 0, 0, 0, 0, 0⟩

/-- The value the model names for the SHA-256 working state at reset, where the spec gives none (R42, log 7). -/
def Sha256Regs.zero : Sha256Regs := ⟨.zero, .zero, Vector.replicate 64 0, 0, 0, Vector.replicate 64 0⟩

/-- The value the model names for the SHA3-256 working state at reset, where the spec gives none (R42, log 7). -/
def KeccakRegs.zero : KeccakRegs := ⟨Vector.replicate 25 0, Vector.replicate 136 0, 0, 0⟩

end Sys2Proof.Machine
end

