-- ==== Sys2Proof/Machine/Keccak.lean ====
section
/-! DEFINITION. The SHA3-256 sponge engine as a function of the message (42_sha3_256.md R161 to R176). -/

namespace Sys2Proof.Machine

/-! ### State layout and padding -/

/-- `A[x][y]`, the lane with index `x + 5y`; index arithmetic is modulo 5 (R161). -/
def lane (A : Lanes) (x y : Nat) : Lane := nth A (x % 5 + 5 * (y % 5))

/-- The state whose lane `A[x][y]` is `f x y` (R161). -/
def lanesOf (f : Nat → Nat → Lane) : Lanes := arrayOf 25 fun i => f (i % 5) (i / 5)

/-- `q = 136 - (L mod 136)` of R162. -/
def padRoom3 (len : Nat) : Nat := 136 - len % 136

/-- `pad3(m)` of R162. -/
def pad3 (m : Bytes) : Bytes :=
  if padRoom3 m.length = 1 then m ++ [0x86]
  else m ++ [0x06] ++ List.replicate (padRoom3 m.length - 2) 0x00 ++ [0x80]

/-- Block `j` of a padded message: `P[136j .. 136j+136)` (R163). -/
def block3 (p : Bytes) (j : Nat) : Bytes := slice p (136 * j) (136 * j + 136)

/-- `LE64(P[8i .. 8i+8))` (R164). -/
def blockLane (b : Bytes) (i : Nat) : Lane :=
  le64 (byteAt b (8 * i)) (byteAt b (8 * i + 1)) (byteAt b (8 * i + 2)) (byteAt b (8 * i + 3))
    (byteAt b (8 * i + 4)) (byteAt b (8 * i + 5)) (byteAt b (8 * i + 6)) (byteAt b (8 * i + 7))

/-! ### The step mappings -/

/-- `C[x]` of θ: the parity of column `x` (R167). -/
def columnParity (A : Lanes) (x : Nat) : Lane :=
  lane A x 0 ^^^ lane A x 1 ^^^ lane A x 2 ^^^ lane A x 3 ^^^ lane A x 4

/-- `D[x]` of θ (R167); `x - 1` modulo 5 is `x + 4`. -/
def thetaEffect (A : Lanes) (x : Nat) : Lane :=
  columnParity A ((x + 4) % 5) ^^^ rotl (columnParity A ((x + 1) % 5)) 1

/-- θ of R167. -/
def theta (A : Lanes) : Lanes := lanesOf fun x y => lane A x y ^^^ thetaEffect A x

/-- The rho offsets `r[x][y]`, by lane index `x + 5y`: one row of the table of R169 a line. -/
def rhoOffsets : List Nat :=
  [0, 1, 62, 28, 27] ++
  [36, 44, 6, 55, 20] ++
  [3, 10, 43, 25, 39] ++
  [41, 45, 15, 21, 8] ++
  [18, 2, 61, 56, 14]

/-- `r[x][y]` (R169). -/
def rhoOffset (x y : Nat) : Nat := rhoOffsets.getD (x + 5 * y) 0

/-- ρ of R168. -/
def rho (A : Lanes) : Lanes := lanesOf fun x y => rotl (lane A x y) (rhoOffset x y)

/-- π of R170. -/
def piStep (A : Lanes) : Lanes := lanesOf fun x y => lane A (x + 3 * y) x

/-- χ of R171. -/
def chi (A : Lanes) : Lanes := lanesOf fun x y => lane A x y ^^^ (~~~(lane A (x + 1) y) &&& lane A (x + 2) y)

/-- The round constants `RC[0..23]` (R173). -/
def roundConstants : List Lane :=
  [0x0000000000000001, 0x0000000000008082, 0x800000000000808A, 0x8000000080008000] ++
  [0x000000000000808B, 0x0000000080000001, 0x8000000080008081, 0x8000000000008009] ++
  [0x000000000000008A, 0x0000000000000088, 0x0000000080008009, 0x000000008000000A] ++
  [0x000000008000808B, 0x800000000000008B, 0x8000000000008089, 0x8000000000008003] ++
  [0x8000000000008002, 0x8000000000000080, 0x000000000000800A, 0x800000008000000A] ++
  [0x8000000080008081, 0x8000000000008080, 0x0000000080000001, 0x8000000080008008]

/-- `RC[ir]`. -/
def roundConstant (ir : Nat) : Lane := roundConstants.getD ir 0

/-- ι of R172. -/
def iota (A : Lanes) (ir : Nat) : Lanes :=
  lanesOf fun x y => if x = 0 ∧ y = 0 then lane A 0 0 ^^^ roundConstant ir else lane A x y

/-- `Rnd(A, ir)` of R166. -/
def keccakRound (A : Lanes) (ir : Nat) : Lanes := iota (chi (piStep (rho (theta A)))) ir

/-- Rounds `0 .. n-1` (R165). -/
def keccakRounds (A : Lanes) : Nat → Lanes
  | 0 => A
  | n + 1 => keccakRound (keccakRounds A n) n

/-- Keccak-f[1600] (R165): 24 rounds. -/
def keccakF (A : Lanes) : Lanes := keccakRounds A 24

/-! ### The sponge -/

/-- The XOR of one block into the rate, lanes 0 to 16 (R164). -/
def xorBlock (A : Lanes) (b : Bytes) : Lanes :=
  arrayOf 25 fun i => if i < 17 then nth A i ^^^ blockLane b i else nth A i

/-- `Absorb(A, P)` of R164. -/
def absorb (A : Lanes) (b : Bytes) : Lanes := keccakF (xorBlock A b)

/-- The first 32 bytes of the state (R175). -/
def squeeze (A : Lanes) : Digest :=
  bytesToVector 32 (le64Bytes (lane A 0 0) ++ le64Bytes (lane A 1 0) ++ le64Bytes (lane A 2 0) ++ le64Bytes (lane A 3 0))

/-- The all-zero state (R176). -/
def zeroLanes : Lanes := Vector.replicate 25 0

/-- The state after blocks `0 .. n-1` of a padded message (R176). -/
def absorbBlocks (p : Bytes) : Nat → Lanes
  | 0 => zeroLanes
  | n + 1 => absorb (absorbBlocks p n) (block3 p n)

/-- `SHA3_256(m)` of R176. -/
def sha3_256 (m : Bytes) : Digest := squeeze (absorbBlocks (pad3 m) ((pad3 m).length / 136))

end Sys2Proof.Machine
end

