-- ==== Sys2Proof/Machine/Memory.lean ====
section
/-! DEFINITION. The message buffer as a sorted list of the bytes written since reset (10_state.md R34), its canonical form,
and reading and writing it. -/

namespace Sys2Proof.Machine

/-- The cells of MSG written since reset: (byte index, byte), by rising index. -/
abbrev Memory := List Host.Cell

namespace Memory

/-- The canonical form: indices strictly rising. An index that is not listed has not been written since reset, reads as no
written byte, and no entry says that, so equal memories are equal lists (log 6). -/
def wf : Memory → Bool
  | [] => true
  | [_] => true
  | (a, _) :: (b, v) :: rest => decide (a < b) && wf ((b, v) :: rest)

/-- The byte written at index `i` since reset, if one was. -/
def read? : Memory → Nat → Option Byte
  | [], _ => none
  | (a, v) :: rest, i => if a = i then some v else read? rest i

/-- One byte written; the indices stay strictly rising. -/
def write : Memory → Nat → Byte → Memory
  | [], i, v => [(i, v)]
  | (a, u) :: rest, i, v =>
    if i < a then (i, v) :: (a, u) :: rest
    else if i = a then (i, v) :: rest
    else (a, u) :: write rest i v

/-- `MemWrite(a, n, v)` of 00_scope.md R11: the bytes `v` from index `a` on. -/
def writeBytes : Memory → Nat → Bytes → Memory
  | m, _, [] => m
  | m, a, v :: vs => writeBytes (write m a v) (a + 1) vs

/-- Every listed index is below `n`. -/
def below (n : Nat) (m : Memory) : Bool := m.all fun c => decide (c.1 < n)

end Memory

end Sys2Proof.Machine
end

