-- ==== Sys2Proof/Machine/Sha256.lean ====
section
/-! DEFINITION. The SHA-256 compression engine as a function of the message (41_sha256.md R121 to R138). -/

namespace Sys2Proof.Machine

/-! ### Padding and blocks -/

/-- `k = (55 - L) mod 64` of R122, computed in the integers. -/
def padZeros256 (len : Nat) : Nat := ((55 - (len : Int)) % 64).toNat

/-- `pad256(m)` of R122. -/
def pad256 (m : Bytes) : Bytes :=
  m ++ [0x80] ++ List.replicate (padZeros256 m.length) 0x00 ++ be64Bytes (BitVec.ofNat 64 (8 * m.length))

/-- Block `i` of a padded message: `P[64i .. 64i+64)` (R123). -/
def block256 (p : Bytes) (i : Nat) : Bytes := slice p (64 * i) (64 * i + 64)

/-- Word `j` of a block, big-endian (R121). -/
def blockWord (b : Bytes) (j : Nat) : Word :=
  be32 (byteAt b (4 * j)) (byteAt b (4 * j + 1)) (byteAt b (4 * j + 2)) (byteAt b (4 * j + 3))

/-- `M[0..15]` of a block (R121). -/
def blockWords (b : Bytes) : List Word := (List.range 16).map (blockWord b)

/-! ### Constants -/

/-- `IV[0..7]` (R124). -/
def sha256IV : EightWords :=
  ⟨0x6a09e667, 0xbb67ae85, 0x3c6ef372, 0xa54ff53a, 0x510e527f, 0x9b05688c, 0x1f83d9ab, 0x5be0cd19⟩

/-- `K[0..63]` (R125). -/
def sha256K : List Word :=
  [0x428a2f98, 0x71374491, 0xb5c0fbcf, 0xe9b5dba5, 0x3956c25b, 0x59f111f1, 0x923f82a4, 0xab1c5ed5] ++
  [0xd807aa98, 0x12835b01, 0x243185be, 0x550c7dc3, 0x72be5d74, 0x80deb1fe, 0x9bdc06a7, 0xc19bf174] ++
  [0xe49b69c1, 0xefbe4786, 0x0fc19dc6, 0x240ca1cc, 0x2de92c6f, 0x4a7484aa, 0x5cb0a9dc, 0x76f988da] ++
  [0x983e5152, 0xa831c66d, 0xb00327c8, 0xbf597fc7, 0xc6e00bf3, 0xd5a79147, 0x06ca6351, 0x14292967] ++
  [0x27b70a85, 0x2e1b2138, 0x4d2c6dfc, 0x53380d13, 0x650a7354, 0x766a0abb, 0x81c2c92e, 0x92722c85] ++
  [0xa2bfe8a1, 0xa81a664b, 0xc24b8b70, 0xc76c51a3, 0xd192e819, 0xd6990624, 0xf40e3585, 0x106aa070] ++
  [0x19a4c116, 0x1e376c08, 0x2748774c, 0x34b0bcb5, 0x391c0cb3, 0x4ed8aa4a, 0x5b9cca4f, 0x682e6ff3] ++
  [0x748f82ee, 0x78a5636f, 0x84c87814, 0x8cc70208, 0x90befffa, 0xa4506ceb, 0xbef9a3f7, 0xc67178f2]

/-- `K[t]`. -/
def kConst (t : Nat) : Word := sha256K.getD t 0

/-! ### Bit functions -/

/-- `Ch` of R126. -/
def ch (x y z : Word) : Word := (x &&& y) ^^^ (~~~x &&& z)

/-- `Maj` of R127. -/
def maj (x y z : Word) : Word := (x &&& y) ^^^ (x &&& z) ^^^ (y &&& z)

/-- `Σ0` of R128. -/
def bigSigma0 (x : Word) : Word := rotr x 2 ^^^ rotr x 13 ^^^ rotr x 22

/-- `Σ1` of R129. -/
def bigSigma1 (x : Word) : Word := rotr x 6 ^^^ rotr x 11 ^^^ rotr x 25

/-- `σ0` of R130: the third term is a shift (90_conflicts.md C2). -/
def smallSigma0 (x : Word) : Word := rotr x 7 ^^^ rotr x 18 ^^^ shr x 3

/-- `σ1` of R131: the third term is a shift (90_conflicts.md C2). -/
def smallSigma1 (x : Word) : Word := rotr x 17 ^^^ rotr x 19 ^^^ shr x 10

/-! ### Schedule, round, compression -/

/-- `W[t]` for `t ≥ 16` from the words before it (R132). -/
def nextSchedWord (w : List Word) (t : Nat) : Word :=
  smallSigma1 (w.getD (t - 2) 0) + w.getD (t - 7) 0 + smallSigma0 (w.getD (t - 15) 0) + w.getD (t - 16) 0

/-- The schedule with `W[t]` put after the words before it. -/
def extendSched (w : List Word) (t : Nat) : List Word := w ++ [nextSchedWord w t]

/-- `W[0 .. 16+n)` from `M[0..15]` (R132). -/
def schedUpTo (m : List Word) : Nat → List Word
  | 0 => m
  | n + 1 => extendSched (schedUpTo m n) (16 + n)

/-- The message schedule `W[0..63]` (R132). -/
def schedule (m : List Word) : List Word := schedUpTo m 48

/-- `Round(t, (a..h))` with `K[t] = k` and `W[t] = w` (R133). -/
def round256 (k w : Word) (v : EightWords) : EightWords :=
  let t1 := v.h + bigSigma1 v.e + ch v.e v.f v.g + k + w
  let t2 := bigSigma0 v.a + maj v.a v.b v.c
  ⟨t1 + t2, v.a, v.b, v.c, v.d + t1, v.e, v.f, v.g⟩

/-- Rounds `0 .. n-1` on a schedule (R134). -/
def rounds256 (w : List Word) (v : EightWords) : Nat → EightWords
  | 0 => v
  | n + 1 => round256 (kConst n) (w.getD n 0) (rounds256 w v n)

/-- Wordwise addition modulo 2^32 (R134). -/
def EightWords.add (x y : EightWords) : EightWords :=
  ⟨x.a + y.a, x.b + y.b, x.c + y.c, x.d + y.d, x.e + y.e, x.f + y.f, x.g + y.g, x.h + y.h⟩

/-- `Compress(H, B)` of R134. -/
def compress (h : EightWords) (b : Bytes) : EightWords := h.add (rounds256 (schedule (blockWords b)) h 64)

/-! ### The whole function -/

/-- The words `H[0..7]` in order. -/
def EightWords.words (x : EightWords) : List Word := [x.a, x.b, x.c, x.d, x.e, x.f, x.g, x.h]

/-- The Digest of a hash state (R137). -/
def digestOfHash (h : EightWords) : Digest := bytesToVector 32 (h.words.flatMap be32Bytes)

/-- The hash state after blocks `0 .. n-1` of a padded message (R138). -/
def hashBlocks (p : Bytes) : Nat → EightWords
  | 0 => sha256IV
  | n + 1 => compress (hashBlocks p n) (block256 p n)

/-- `SHA256(m)` of R138. -/
def sha256 (m : Bytes) : Digest := digestOfHash (hashBlocks (pad256 m) ((pad256 m).length / 64))

end Sys2Proof.Machine
end

