-- ==== Sys2Proof/Config.lean ====
section
/-! DEFINITION. What an implementation fixes and what the spec leaves open (00_scope.md R5, 93_implementation_defined.md).
Every constant here is `opaque` and has no body: no proof can see its value, so what is proved holds for each. -/

namespace Sys2Proof.Config

/-- Which admissible buffer size this implementation has, as a number of words beyond the least one (R5, D6). -/
opaque msgBufChoice : Nat

/-- MSG_BUF_BYTES (R5): any multiple of 4 with `256 ≤ MSG_BUF_BYTES ≤ 2^32 - 4096`, log 9.
Each admissible size is reached by some `msgBufChoice`, and no other size is. -/
def msgBufBytes : Nat := 256 + 4 * (msgBufChoice % ((2 ^ 32 - 4096 - 256) / 4 + 1))

/-- Byte `i` of MSG as the `n`-th reset leaves it: "any value, drawn per byte" (10_state.md R42, 93 U2), log 5. -/
opaque msgByte : (n i : Nat) → Byte

/-- LATENCY of the accepted command that makes draw `n`: any finite number of host steps (R5, 93 U5), log 2. -/
opaque latency : (n : Nat) → Nat

/-- Word `k` of the internal state that the completion making draw `n` leaves behind: the values are
"unspecified" (10_state.md R37, 93 U4), log 8. -/
opaque residue : (n k : Nat) → BitVec 64

end Sys2Proof.Config
end

