-- ==== Sys2Proof/Machine/State.lean ====
section
/-! DEFINITION. The state of one EP2C-HASH instance (10_state.md) with its host (20_memory.md R68), plain data throughout,
the reasons a step can stop, and the state after reset (10_state.md R42). -/

namespace Sys2Proof.Machine

/-- One thing the outside world does to the block: a bus transaction (20_memory.md R58, R60), one line of a host program
(30_encoding.md R91), or the assertion of `rst_n` (70_reset_and_hazards.md R280). -/
inductive HostEvent where
  /-- `RD off`: BusRead. -/
  | read (off : Word)
  /-- `WR off, data`: BusWrite. -/
  | write (off data : Word)
  /-- `POLL off, mask, value`: BusRead repeated until `(result & mask) = value`. -/
  | poll (off mask value : Word)
  /-- `rst_n` is asserted. -/
  | reset
  deriving DecidableEq, Repr

/-- The state of one instance and of its host. -/
structure State where
  /-- CMD (R24). -/
  cmd : Word
  /-- LEN (R25). -/
  len : Word
  /-- STATUS.BUSY (R27), which is also the phase (R21). -/
  busy : Bool
  /-- STATUS.DONE (R28). -/
  done : Bool
  /-- STATUS.WIGN (R29). -/
  wign : Bool
  /-- STATUS.ERR (R30). -/
  err : BitVec 4
  /-- MSGCAP (R31), the constant MSG_BUF_BYTES of this instance (log 9). -/
  msgcap : Word
  /-- DIGEST[0..31] (R32). -/
  digest : Digest
  /-- HEX[0..63] (R33); HEX[64..67] are constant and are not stored. -/
  hex : HexChars
  /-- MSG (R34): the bytes written since reset, by rising byte index (log 6). -/
  msg : List Host.Cell
  /-- OP_L (R36). -/
  opL : BitVec 4
  /-- ALG_L (R36). -/
  algL : BitVec 8
  /-- LEN_L (R36). -/
  lenL : Word
  /-- The SHA-256 engine's working state (R38). -/
  sha : Sha256Regs
  /-- The SHA3-256 engine's working state (R39). -/
  keccak : KeccakRegs
  /-- The model's own: the host's events still to come, the next one first (20_memory.md R68, log 1). -/
  program : List HostEvent
  /-- The model's own: the values BusRead has returned to the host, newest first (log 12). -/
  hostReads : List Word
  /-- The model's own: host steps that still fall before the completion of the command in flight (R5 LATENCY, log 2). -/
  wait : Nat
  /-- The model's own: LATENCY of the commands still to be accepted, the next one first (log 2). -/
  latencies : List Nat
  /-- The model's own: which draw of the MSG contents the last reset made (log 5). -/
  epoch : Nat
  /-- The model's own: how many free values of LATENCY and of discarded state have been drawn (log 2, 8). -/
  draws : Nat
  deriving DecidableEq, Repr

/-- Why the machine stops. The spec has no such case: every error of EP2C-HASH is a next state (60_exceptions.md R262). -/
inductive Fault where
  /-- Raised by `step` when BUSY = 1 and the latched OP_L and ALG_L are none that an accepted command leaves, so that no row
  of 44_dispatch.md R224 applies. Safe: no run reaches such a state (log 11). -/
  | engineStuck
  deriving DecidableEq, Repr

/-- Why an instruction has no meaning here. -/
inductive Refusal where
  /-- Raised by an arm of `exec` that has no meaning yet; no arm is left so. Safe. -/
  | notModelled (mnemonic : String)
  deriving DecidableEq, Repr

/-- What a step answers. -/
abbrev StepOutcome := Host.Outcome State Fault Refusal

/-- The state after reset (10_state.md R42). Every value is the spec's, but for the latch and the engines' working state,
which are "unspecified" and get named zeros (log 7), and the model's own fields (log 1, 2, 5, 12). MSG lists nothing: each
of its bytes is a free value (log 5). -/
def State.reset : State where
  cmd := 0
  len := 0
  busy := false
  done := false
  wign := false
  err := 0
  msgcap := BitVec.ofNat 32 Config.msgBufBytes
  digest := Vector.replicate 32 0
  hex := Vector.replicate 64 0
  msg := []
  opL := 0
  algL := 0
  lenL := 0
  sha := Sha256Regs.zero
  keccak := KeccakRegs.zero
  program := []
  hostReads := []
  wait := 0
  latencies := []
  epoch := 0
  draws := 0

end Sys2Proof.Machine
end

