-- ==== Sys2Proof/Machine/Operands.lean ====
section
/-! DEFINITION. The operands of the commands: the message in MSG, LEN and SRCV through the Byte Source Normalizer
(40_normalizer.md), the tag, and the words of DIGEST, HEX and MSG as the bus sees them (20_memory.md R55). -/

namespace Sys2Proof.Machine

/-- Byte `i` of MSG: what was written there since reset, and else the value the last reset drew (10_state.md R34, 93 U2). -/
def msgByte (s : State) (i : Nat) : Byte := (Memory.read? s.msg i).getD (Config.msgByte s.epoch i)

/-- `MemRead(a, n)` of 00_scope.md R11: `MSG[a .. a+n)`, with no side effect. -/
def memRead (s : State) (a n : Nat) : Bytes := (List.range n).map fun i => msgByte s (a + i)

/-- The ByteSequence of the command in flight: `MSG[0 .. LEN_L)`, read in place (20_memory.md R74, 40_normalizer.md R103). -/
def message (s : State) : Bytes := memRead s 0 s.lenL.toNat

/-- `Normalize(srcv, LEN_L)` of 40_normalizer.md R102: presence first, then the length range. -/
def normalize (srcv : Bool) (s : State) : Except CmdError Bytes :=
  if srcv = false then .error .invalidInput
  else if s.msgcap.toNat < s.lenL.toNat then .error .lengthOutOfRange
  else .ok (message s)

/-- The hash function a valid tag names: `(ALG_L = 0x00) ? SHA256(m) : SHA3_256(m)` (44_dispatch.md R230). -/
def hashByTag (tag : Nat) (m : Bytes) : Digest := if tag = tagSha256 then sha256 m else sha3_256 m

/-- Byte `j` of HEX, `0 ≤ j ≤ 67`: bytes 64 to 67 are the constant 0x00 (10_state.md R33, 43_hex_encoder.md R203). -/
def hexByte (s : State) (j : Nat) : Byte := if j < 64 then nth s.hex j else 0

/-- DIGEST word `k` as the bus reads it (10_state.md R32, 20_memory.md R55). -/
def digestWord (s : State) (k : Nat) : Word :=
  le32 (nth s.digest (4 * k)) (nth s.digest (4 * k + 1)) (nth s.digest (4 * k + 2)) (nth s.digest (4 * k + 3))

/-- HEX word `k` as the bus reads it (20_memory.md R55). -/
def hexWord (s : State) (k : Nat) : Word :=
  le32 (hexByte s (4 * k)) (hexByte s (4 * k + 1)) (hexByte s (4 * k + 2)) (hexByte s (4 * k + 3))

/-- MSG word `k` as the bus reads it (20_memory.md R55). -/
def msgWord (s : State) (k : Nat) : Word :=
  le32 (msgByte s (4 * k)) (msgByte s (4 * k + 1)) (msgByte s (4 * k + 2)) (msgByte s (4 * k + 3))

/-- DIGEST with word `k` replaced by the four bytes of `data`: `DIGEST[4k+i] <- data[8i+7:8i]` (20_memory.md R65). -/
def putDigestWord (d : Digest) (k : Nat) (data : Word) : Digest :=
  arrayOf 32 fun j => if j / 4 = k then byteOf data (j % 4) else nth d j

end Sys2Proof.Machine
end

