-- ==== Sys2Proof/Machine/EngineCycle.lean ====
section
/-! DEFINITION. The engines as iterative or unrolled hardware (41_sha256.md R135, R136; 42_sha3_256.md R174): one internal
cycle of UNROLL rounds (00_scope.md R5) on the working state of 10_state.md R38 and R39. These cycles are no steps of the block (44_dispatch.md R225) and
nothing observes them (10_state.md R37); `step` does not take them. -/

namespace Sys2Proof.Machine

/-! ### SHA-256 -/

/-- `block:` of R135: `B` and `W[0..15]` are loaded, `(a..h) <- H`, `t <- 0`. -/
def Sha256Regs.loadBlock (p : Bytes) (r : Sha256Regs) : Sha256Regs :=
  { r with
    vars := r.hash
    sched := arrayOf 64 fun t => if t < 16 then blockWord (block256 p r.blockIndex) t else nth r.sched t
    roundIndex := 0
    block := bytesToVector 64 (block256 p r.blockIndex) }

/-- `start:` of R135 on the padded message `p`: `H <- IV; i <- 0`, and the first block is loaded. `W[16..63]`, which R135 does
not write here, stay as the registers hold them until the rounds compute them (log 18). -/
def Sha256Regs.start (p : Bytes) (r : Sha256Regs) : Sha256Regs :=
  { r with hash := sha256IV, blockIndex := 0 }.loadBlock p

/-- `W[t+16]`, computed while round `t` runs (R135); past `W[63]` there is none. -/
def schedAhead (w : Vector Word 64) (t : Nat) : Vector Word 64 :=
  arrayOf 64 fun u => if u = t + 16 then nextSchedWord w.toList u else nth w u

/-- `round:` of R135. -/
def Sha256Regs.round (r : Sha256Regs) : Sha256Regs :=
  { r with
    vars := round256 (kConst r.roundIndex) (nth r.sched r.roundIndex) r.vars
    sched := schedAhead r.sched r.roundIndex
    roundIndex := r.roundIndex + 1 }

/-- `feed:` of R135: `H <- H + (a..h)`, `i <- i + 1`, and the next block is loaded if there is one. -/
def Sha256Regs.feed (p : Bytes) (r : Sha256Regs) : Sha256Regs :=
  let fed := { r with hash := r.hash.add r.vars, blockIndex := r.blockIndex + 1 }
  if fed.blockIndex < p.length / 64 then fed.loadBlock p else fed

/-- `if t < 64 then repeat round`, and else the feed (R135). -/
def Sha256Regs.afterRound (p : Bytes) (r : Sha256Regs) : Sha256Regs := if r.roundIndex < 64 then r else r.feed p

/-- One round of the engine with what R135 puts after it, so that the feed of a block takes no round of its own (log 18); and
nothing once all blocks are fed: the registers then stay as they are (log 18). -/
def Sha256Regs.move (p : Bytes) (r : Sha256Regs) : Sha256Regs :=
  if r.blockIndex < p.length / 64 then r.round.afterRound p else r

/-- `n` rounds. -/
def Sha256Regs.moves (p : Bytes) (r : Sha256Regs) : Nat → Sha256Regs
  | 0 => r
  | n + 1 => (Sha256Regs.moves p r n).move p

/-! ### SHA3-256 -/

/-- Block `j` is loaded and XORed into the rate; `ir <- 0` (R164, R174). -/
def KeccakRegs.loadBlock (p : Bytes) (r : KeccakRegs) : KeccakRegs :=
  { r with
    lanes := xorBlock r.lanes (block3 p r.blockIndex)
    roundIndex := 0
    block := bytesToVector 136 (block3 p r.blockIndex) }

/-- The start of a computation on the padded message `p`: the all-zero state (R176), and the first block is loaded. -/
def KeccakRegs.start (p : Bytes) : KeccakRegs := KeccakRegs.zero.loadBlock p

/-- One round `Rnd` (R174). -/
def KeccakRegs.round (r : KeccakRegs) : KeccakRegs :=
  { r with lanes := keccakRound r.lanes r.roundIndex, roundIndex := r.roundIndex + 1 }

/-- After round 23: `j <- j + 1`, and the next block is loaded if there is one. After the last block, where R174 gives j and ir
no value, the model leaves `j = N3` and `ir = 24` (log 18). -/
def KeccakRegs.nextBlock (p : Bytes) (r : KeccakRegs) : KeccakRegs :=
  let moved := { r with blockIndex := r.blockIndex + 1 }
  if moved.blockIndex < p.length / 136 then moved.loadBlock p else moved

/-- The next round of the block follows, or else the next block (R165, R174). -/
def KeccakRegs.afterRound (p : Bytes) (r : KeccakRegs) : KeccakRegs := if r.roundIndex < 24 then r else r.nextBlock p

/-- One round of the engine with what follows it, so that the next block takes no round of its own (log 18); and nothing once
all blocks are absorbed: the registers then stay as they are (log 18). -/
def KeccakRegs.move (p : Bytes) (r : KeccakRegs) : KeccakRegs :=
  if r.blockIndex < p.length / 136 then r.round.afterRound p else r

/-- `n` rounds. -/
def KeccakRegs.moves (p : Bytes) (r : KeccakRegs) : Nat → KeccakRegs
  | 0 => r
  | n + 1 => (KeccakRegs.moves p r n).move p

/-! ### The engine of the command in flight -/

/-- Does the latched command run the SHA-256 engine (44_dispatch.md R224)? -/
def usesSha256 (s : State) : Bool := s.opL == 2 || (s.opL == 1 && s.algL == 0)

/-- Does the latched command run the SHA3-256 engine (44_dispatch.md R224)? -/
def usesSha3_256 (s : State) : Bool := s.opL == 3 || (s.opL == 1 && s.algL == 1)

/-- One engine cycle of an implementation with UNROLL = `unroll`, the "rounds computed per engine cycle" of 00_scope.md R5: that
many rounds of the engine in use, so one cycle computes a whole block at 64 (24 for SHA3-256). It changes only the engines' working state. -/
def engineCycle (unroll : Nat) (s : State) : State :=
  if usesSha256 s then { s with sha := s.sha.moves (pad256 (message s)) unroll }
  else if usesSha3_256 s then { s with keccak := s.keccak.moves (pad3 (message s)) unroll }
  else s

/-- `n` engine cycles. -/
def engineCycles (unroll : Nat) (s : State) : Nat → State
  | 0 => s
  | n + 1 => engineCycle unroll (engineCycles unroll s n)

end Sys2Proof.Machine
end

