-- ==== Sys2Proof/Machine/Flags.lean ====
section
/-! DEFINITION. The STATUS register (10_state.md R26 to R30): the word it reads as, and the writes to its fields. It is the
only flag state there is: no command sets a carry, overflow or zero flag (10_state.md R22). -/

namespace Sys2Proof.Machine

/-- A one-bit field as a word. -/
def bitWord (b : Bool) : Word := if b then 1 else 0

/-- `zext_32(ERR) << 4 | WIGN << 2 | DONE << 1 | BUSY` (20_memory.md R58); the reserved bits read as 0 (10_state.md R26). -/
def statusWord (s : State) : Word :=
  s.err.setWidth 32 <<< 4 ||| bitWord s.wign <<< 2 ||| bitWord s.done <<< 1 ||| bitWord s.busy

/-- The two phases (10_state.md R21, 44_dispatch.md R221). -/
inductive Phase where
  | idle
  | busy
  deriving DecidableEq, Repr

/-- `STATUS.BUSY = 0` is IDLE and `STATUS.BUSY = 1` is BUSY (10_state.md R21). -/
def phase (s : State) : Phase := if s.busy then .busy else .idle

/-- A host write was ignored because BUSY = 1: `WIGN <- 1`, and nothing else (10_state.md R29). -/
def setWign (s : State) : State := { s with wign := true }

/-- `WriteSTATUS(data)` of 20_memory.md R64: bit 2 clears WIGN, every other bit is ignored. -/
def writeStatus (data : Word) (s : State) : State := if data.getLsbD 2 then { s with wign := false } else s

/-- The flags of a command that passed its checks: `BUSY <- 1; DONE <- 0; ERR <- 0` (44_dispatch.md R222). -/
def setBusy (s : State) : State := { s with busy := true, done := false, err := 0 }

/-- The flags of a completion: `BUSY <- 0; DONE <- 1`; ERR stays (44_dispatch.md R224). -/
def setDone (s : State) : State := { s with busy := false, done := true }

end Sys2Proof.Machine
end

