-- ==== Sys2Proof/Machine/Hex.lean ====
section
/-! DEFINITION. The hex encoder (43_hex_encoder.md R200 to R203): a pure function of the 32 digest bytes. -/

namespace Sys2Proof.Machine

/-- `hexdigit(v)` of R201. -/
def hexDigit (v : BitVec 4) : Byte :=
  if v.toNat ≤ 9 then 0x30 + v.setWidth 8 else 0x61 + (v.setWidth 8 - 10)

/-- `HexEncode(D)` of R202: character `2j` is the high nibble of byte `j`, character `2j+1` its low nibble. -/
def hexEncode (D : Digest) : HexChars :=
  arrayOf 64 fun p =>
    if p % 2 = 0 then hexDigit ((nth D (p / 2)).extractLsb' 4 4)
    else hexDigit ((nth D (p / 2)).extractLsb' 0 4)

end Sys2Proof.Machine
end

