-- ==== Sys2Proof/Machine/Ops.lean ====
section
/-! DEFINITION. The operations the commands share: the latch, taking an error, the two steps of a command's life
(44_dispatch.md R222, R224), and reset. There is no return from an error: "There is no return-from-trap"
(60_exceptions.md R263). -/

namespace Sys2Proof.Machine

/-! ### Taking an error -/

/-- `raise E(code)` of 60_exceptions.md R262: `ERR <- code; DONE <- 1`, BUSY stays 0, nothing else is written. -/
def raiseError (e : CmdError) (s : State) : State := { s with err := e.code, done := true }

/-! ### Acceptance -/

/-- `OP_L <- c[3:0]; ALG_L <- c[23:16]; LEN_L <- LEN` (44_dispatch.md R222). -/
def latch (op : BitVec 4) (alg : BitVec 8) (s : State) : State := { s with opL := op, algL := alg, lenL := s.len }

/-- LATENCY of the command being accepted: the next number given, or the free value when none is (R5, log 2). -/
def nextLatency (s : State) : Nat :=
  match s.latencies with
  | [] => Config.latency s.draws
  | n :: _ => n

/-- The command passed its checks: the STATUS fields of 44_dispatch.md R222, and the host steps before its completion. -/
def startCommand (s : State) : State :=
  setBusy { s with wait := nextLatency s, latencies := s.latencies.tail, draws := s.draws + 1 }

/-- The SHA-256 working state is created (10_state.md R35); the other engine's is kept (log 29). -/
def beginSha256 (m : Bytes) (s : State) : State := { s with sha := s.sha.start (pad256 m) }

/-- The Keccak state is created (10_state.md R35); the other engine's is kept (log 29). -/
def beginSha3_256 (m : Bytes) (s : State) : State := { s with keccak := KeccakRegs.start (pad3 m) }

/-- The working state of the engine that a valid tag names is created. The other engine's, for which the spec gives no value, is
kept as it was: the model's choice (log 29). -/
def beginByTag (tag : Nat) (m : Bytes) (s : State) : State :=
  if tag = tagSha256 then beginSha256 m s else beginSha3_256 m s

/-! ### Completion -/

/-- Eight words of discarded state, from word `k` on. -/
def residueWords (n k : Nat) : EightWords :=
  ⟨(Config.residue n k).setWidth 32, (Config.residue n (k + 1)).setWidth 32, (Config.residue n (k + 2)).setWidth 32,
   (Config.residue n (k + 3)).setWidth 32, (Config.residue n (k + 4)).setWidth 32, (Config.residue n (k + 5)).setWidth 32,
   (Config.residue n (k + 6)).setWidth 32, (Config.residue n (k + 7)).setWidth 32⟩

/-- A SHA-256 working state made of free values. -/
def residueSha256 (n : Nat) : Sha256Regs where
  hash := residueWords n 8
  vars := residueWords n 16
  sched := arrayOf 64 fun t => (Config.residue n (100 + t)).setWidth 32
  blockIndex := (Config.residue n 3).toNat
  roundIndex := (Config.residue n 4).toNat
  block := arrayOf 64 fun i => (Config.residue n (200 + i)).setWidth 8

/-- A SHA3-256 working state made of free values. -/
def residueKeccak (n : Nat) : KeccakRegs where
  lanes := arrayOf 25 fun i => Config.residue n (30 + i)
  block := arrayOf 136 fun i => (Config.residue n (300 + i)).setWidth 8
  blockIndex := (Config.residue n 5).toNat
  roundIndex := (Config.residue n 6).toNat

/-- The internal state is "consumed into the final digest, then discarded": its values are unspecified from here on
(10_state.md R35, R37, log 8). -/
def discardInternal (s : State) : State :=
  { s with
    opL := (Config.residue s.draws 0).setWidth 4
    algL := (Config.residue s.draws 1).setWidth 8
    lenL := (Config.residue s.draws 2).setWidth 32
    sha := residueSha256 s.draws
    keccak := residueKeccak s.draws
    draws := s.draws + 1 }

/-- The end of a completion: `BUSY <- 0; DONE <- 1` (44_dispatch.md R224), and the internal state is discarded. -/
def finishCommand (s : State) : State := discardInternal { setDone s with wait := 0 }

/-- `DIGEST[0..31] <- d` (10_state.md R32). -/
def putDigest (d : Digest) (s : State) : State := { s with digest := d }

/-- `HEX[0..63] <- HexEncode(d)` (43_hex_encoder.md R202). -/
def putHex (d : Digest) (s : State) : State := { s with hex := hexEncode d }

/-! ### The life of a command -/

/-- The command that the latch holds, if it is one that acceptance can have left there (44_dispatch.md R224). Only a
command with its input present is accepted (R223), so SRCV = 1. -/
def latchedInstr (s : State) : Option Instr :=
  if s.opL = 1 then (if validTag s.algL.toNat then some (.digest true s.algL.toNat) else none)
  else if s.opL = 2 then some (.sha256 true)
  else if s.opL = 3 then some (.sha3_256 true)
  else if s.opL = 4 then some .hexenc
  else none

/-- The step that command `i` takes in the phase the block is in (log 11). IDLE: its acceptance (44_dispatch.md R222).
BUSY with `i` in flight: its completion (R224). BUSY with another command in flight: `i` is turned away and sets WIGN
(R228). -/
def runCommand (i : Instr) (acceptance completion : State → State) (s : State) : StepOutcome :=
  if s.busy = true then
    if latchedInstr s = some i then .next (completion s) else .next (setWign s)
  else .next (acceptance s)

/-! ### Reset -/

/-- `rst_n` (70_reset_and_hazards.md R280): every piece of the block's state takes its reset value, whatever the phase
(R282); MSG contents are drawn anew (10_state.md R42). The size of the buffer is a constant, and the host is not reset. -/
def resetBlock (s : State) : State :=
  { State.reset with
    msgcap := s.msgcap
    program := s.program
    hostReads := s.hostReads
    latencies := s.latencies
    epoch := s.epoch + 1
    draws := s.draws }

end Sys2Proof.Machine
end

