-- ==== Sys2Proof/Machine/EngineCommands.lean ====
section
/-! DEFINITION. The commands that run one engine alone: SHA256 (41_sha256.md R140) and SHA3_256 (42_sha3_256.md R178). -/

namespace Sys2Proof.Machine

/-- Acceptance of SHA256 (41_sha256.md R140, 44_dispatch.md R222). -/
def acceptSha256 (srcv : Bool) (s : State) : State :=
  let latched := latch 0x2 0 s
  match normalize srcv latched with
  | .error e => raiseError e latched
  | .ok m => startCommand (beginSha256 m latched)

/-- Completion of SHA256: `DIGEST <- SHA256(m)`; HEX is unchanged (41_sha256.md R140). -/
def completeSha256 (s : State) : State := finishCommand (putDigest (sha256 (message s)) s)

/-- SHA256 (41_sha256.md R140). -/
def execSha256 (srcv : Bool) (s : State) : StepOutcome :=
  runCommand (.sha256 srcv) (acceptSha256 srcv) completeSha256 s

/-- Acceptance of SHA3_256 (42_sha3_256.md R178, 44_dispatch.md R222). -/
def acceptSha3_256 (srcv : Bool) (s : State) : State :=
  let latched := latch 0x3 0 s
  match normalize srcv latched with
  | .error e => raiseError e latched
  | .ok m => startCommand (beginSha3_256 m latched)

/-- Completion of SHA3_256: `DIGEST <- SHA3_256(m)`; HEX is unchanged (42_sha3_256.md R178). -/
def completeSha3_256 (s : State) : State := finishCommand (putDigest (sha3_256 (message s)) s)

/-- SHA3_256 (42_sha3_256.md R178). -/
def execSha3_256 (srcv : Bool) (s : State) : StepOutcome :=
  runCommand (.sha3_256 srcv) (acceptSha3_256 srcv) completeSha3_256 s

end Sys2Proof.Machine
end

