-- ==== Sys2Proof/Machine/FacadeCommand.lean ====
section
/-! DEFINITION. The DIGEST command, the Dispatch Facade's own operation (44_dispatch.md R230). -/

namespace Sys2Proof.Machine

/-- Acceptance of DIGEST: the Normalizer's checks, then the tag (44_dispatch.md R222, R223). -/
def acceptDigest (srcv : Bool) (tag : Nat) (s : State) : State :=
  let latched := latch 0x1 (BitVec.ofNat 8 tag) s
  match normalize srcv latched with
  | .error e => raiseError e latched
  | .ok m =>
    if validTag tag then startCommand (beginByTag tag m latched) else raiseError .unsupportedAlgorithm latched

/-- Completion of DIGEST: `DIGEST <- d; HEX <- HexEncode(d)` (44_dispatch.md R224). -/
def completeDigest (tag : Nat) (s : State) : State :=
  let d := hashByTag tag (message s)
  finishCommand (putHex d (putDigest d s))

/-- DIGEST (44_dispatch.md R230). -/
def execDigest (srcv : Bool) (tag : Nat) (s : State) : StepOutcome :=
  runCommand (.digest srcv tag) (acceptDigest srcv tag) (completeDigest tag) s

end Sys2Proof.Machine
end

