-- ==== Sys2Proof/Machine/HexCommand.lean ====
section
/-! DEFINITION. The HEXENC command (43_hex_encoder.md R204): the hex encoder alone, on the digest held in DIGEST. -/

namespace Sys2Proof.Machine

/-- Acceptance of HEXENC: "no Normalizer, no tag check" (43_hex_encoder.md R204). It runs no hash engine, and the working state
of both is kept: the model's choice (log 29). -/
def acceptHexenc (s : State) : State := startCommand (latch 0x4 0 s)

/-- Completion of HEXENC: `HEX <- HexEncode(DIGEST)`; DIGEST is unchanged (43_hex_encoder.md R204). -/
def completeHexenc (s : State) : State := finishCommand (putHex s.digest s)

/-- HEXENC (43_hex_encoder.md R204). -/
def execHexenc (s : State) : StepOutcome := runCommand .hexenc acceptHexenc completeHexenc s

end Sys2Proof.Machine
end

