-- ==== Sys2Proof/Machine/Dispatch.lean ====
section
/-! DEFINITION. One arm per command (30_encoding.md R83). -/

namespace Sys2Proof.Machine

/-- The step that a command takes in the phase the block is in: acceptance in IDLE, completion in BUSY. -/
def exec (i : Instr) (s : State) : Host.Outcome State Fault Refusal :=
  match i with
  | .digest srcv tag => Sys2Proof.Machine.execDigest srcv tag s
  | .sha256 srcv => Sys2Proof.Machine.execSha256 srcv s
  | .sha3_256 srcv => Sys2Proof.Machine.execSha3_256 srcv s
  | .hexenc => Sys2Proof.Machine.execHexenc s

end Sys2Proof.Machine
end

