-- ==== Sys2Proof/Machine/Bus.lean ====
section
/-! DEFINITION. The host's transactions (20_memory.md R50 to R66), the acceptance of a command word (44_dispatch.md R222),
the engine agent's step (R224, R225), and the lines of a host program (30_encoding.md R91). -/

namespace Sys2Proof.Machine

/-! ### The address map (R51) -/

/-- The register or word that an offset addresses. -/
inductive Target where
  | cmd
  | len
  | status
  | msgcap
  | digest (k : Nat)
  | hex (k : Nat)
  | msg (k : Nat)
  | unmapped
  deriving DecidableEq, Repr

/-- The word offset `w = off & ~3` (R51, R56). -/
def wordOffset (off : Word) : Nat := (off &&& ~~~(3 : Word)).toNat

/-- The address map of R51, for a buffer of `cap` bytes. -/
def target (cap : Nat) (off : Word) : Target :=
  let w := wordOffset off
  if w = 0x000 then .cmd
  else if w = 0x004 then .len
  else if w = 0x008 then .status
  else if w = 0x00C then .msgcap
  else if 0x020 ≤ w ∧ w < 0x040 then .digest ((w - 0x020) / 4)
  else if 0x040 ≤ w ∧ w < 0x084 then .hex ((w - 0x040) / 4)
  else if 0x1000 ≤ w ∧ (w - 0x1000) / 4 < cap / 4 then .msg ((w - 0x1000) / 4)
  else .unmapped

/-- The register that an offset addresses in a state. -/
def targetIn (s : State) (off : Word) : Target := target s.msgcap.toNat off

/-! ### BusRead (R58) -/

/-- `BusRead(off)`: a word; no state changes. -/
def busRead (s : State) (off : Word) : Word :=
  match targetIn s off with
  | .cmd => s.cmd
  | .len => s.len
  | .status => statusWord s
  | .msgcap => s.msgcap
  | .digest k => digestWord s k
  | .hex k => hexWord s k
  | .msg k => msgWord s k
  | .unmapped => 0

/-! ### BusWrite (R60) -/

/-- A write that is ignored, and sets WIGN, while BUSY = 1 (10_state.md R29). -/
def writeIfIdle (f : State → State) (s : State) : State := if s.busy = true then setWign s else f s

/-- `WriteLEN(data)` (R63). -/
def writeLen (data : Word) (s : State) : State := writeIfIdle (fun s => { s with len := data }) s

/-- `WriteDIGEST(k, data)` (R65). -/
def writeDigest (k : Nat) (data : Word) (s : State) : State :=
  writeIfIdle (fun s => { s with digest := putDigestWord s.digest k data }) s

/-- `WriteMSG(k, data)` (R62). -/
def writeMsg (k : Nat) (data : Word) (s : State) : State :=
  writeIfIdle (fun s => { s with msg := Memory.writeBytes s.msg (4 * k) (le32Bytes data) }) s

/-- A word that does not decode: latched like any other (44_dispatch.md R222), then IllegalCommand (60_exceptions.md R254). -/
def rejectWord (c : Word) (e : CmdError) (s : State) : State := raiseError e (latch (fieldOp c) (fieldAlg c) s)

/-- `Accept(c)` of 44_dispatch.md R222. -/
def accept (c : Word) (s : State) : StepOutcome :=
  match decode c with
  | .error e => .next (rejectWord c e s)
  | .ok i => exec i s

/-- `WriteCMD(data)` (R61). -/
def writeCmd (data : Word) (s : State) : StepOutcome :=
  if s.busy = true then .next (setWign s) else accept data { s with cmd := data }

/-- `BusWrite(off, data)` (R60). -/
def busWrite (off data : Word) (s : State) : StepOutcome :=
  match targetIn s off with
  | .cmd => writeCmd data s
  | .len => .next (writeLen data s)
  | .status => .next (writeStatus data s)
  | .digest k => .next (writeDigest k data s)
  | .msg k => .next (writeMsg k data s)
  | .msgcap => .next s
  | .hex _ => .next s
  | .unmapped => .next s

/-! ### The agents' steps (R68) -/

/-- The engine agent's step, `Complete()` of 44_dispatch.md R224: the command in flight completes. -/
def engineStep (s : State) : StepOutcome :=
  match latchedInstr s with
  | some i => exec i s
  | none => .fault .engineStuck

/-- Is it the engine's turn? Complete is enabled exactly when BUSY = 1 (44_dispatch.md R225). It comes once LATENCY host
steps have fallen, or when the host has no more to issue (weak fairness, log 2, 3). -/
def engineTurn (s : State) : Bool := s.busy && (s.program.isEmpty || s.wait == 0)

/-- The value a BusRead returns reaches the host (log 12). -/
def returnRead (v : Word) (s : State) : State := { s with hostReads := v :: s.hostReads }

/-- One event of the host, already taken off its program. A POLL whose condition does not hold yet is issued again
(30_encoding.md R91). -/
def hostStep (ev : HostEvent) (s : State) : StepOutcome :=
  match ev with
  | .read off => .next (returnRead (busRead s off) s)
  | .write off data => busWrite off data s
  | .poll off mask value =>
    let v := busRead s off
    if v &&& mask = value then .next (returnRead v s)
    else .next { returnRead v s with program := .poll off mask value :: s.program }
  | .reset => .next (resetBlock s)

/-- The next event is taken off the program; for the command in flight, one more host step has fallen. -/
def takeEvent (rest : List HostEvent) (s : State) : State := { s with program := rest, wait := s.wait - 1 }

/-- The step of whichever agent moves next. Reset overrides both (60_exceptions.md R259); then the engine, if it is its
turn; then the host. In IDLE with nothing to do the block does nothing (60_exceptions.md R271). -/
def agentStep (s : State) : StepOutcome :=
  match s.program with
  | .reset :: rest => .next (resetBlock { s with program := rest })
  | [] => if engineTurn s then engineStep s else .next s
  | ev :: rest => if engineTurn s then engineStep s else hostStep ev (takeEvent rest s)

/-! ### Host programs (30_encoding.md R91) -/

/-- The symbolic offsets of R91. -/
def offCmd : Word := 0x000
def offLen : Word := 0x004
def offStatus : Word := 0x008
def offMsgcap : Word := 0x00C
def offDigest (n : Nat) : Word := BitVec.ofNat 32 (0x020 + n)
def offHex (n : Nat) : Word := BitVec.ofNat 32 (0x040 + n)
def offMsg (n : Nat) : Word := BitVec.ofNat 32 (0x1000 + n)

/-- `WR CMD, <command>`: the mnemonic assembles by R89. -/
def HostEvent.command (i : Instr) : HostEvent := .write offCmd (encode i)

/-- `POLL STATUS, 0x00000001, 0x0`: wait for BUSY = 0. -/
def HostEvent.pollIdle : HostEvent := .poll offStatus 0x00000001 0x0

/-- `WRSTR off, "<text>"`: writes of successive LE32 words of the text's bytes, the last one padded with 0x00. The offset of a
text that passes 2^32 wraps (log 27). -/
def wrstr (off : Word) : Bytes → List HostEvent
  | [] => []
  | [b0] => [.write off (le32 b0 0 0 0)]
  | [b0, b1] => [.write off (le32 b0 b1 0 0)]
  | [b0, b1, b2] => [.write off (le32 b0 b1 b2 0)]
  | b0 :: b1 :: b2 :: b3 :: rest => .write off (le32 b0 b1 b2 b3) :: wrstr (off + 4) rest

/-! ### The call contract as a host sequence (44_dispatch.md R232) -/

/-- Steps 1 to 4 with a message: the message, its length, the command, the wait. Step 1 says "word writes" only, and
70_reset_and_hazards.md R289 allows any values in the last word beyond the data: that the call writes its words from the lowest
offset up, and 0x00 there, as WRSTR does, is the model's choice (log 28). The spec gives no sequence for data longer than
LEN and the offsets can say; the model's then writes the length modulo 2^32, and its offsets wrap (log 27). -/
def callSequence (m : Bytes) (i : Instr) : List HostEvent :=
  wrstr (offMsg 0) m ++ [.write offLen (BitVec.ofNat 32 m.length), .command i, .pollIdle]

/-- Steps 1 to 4 of `digest(data, tag)`. A null `data` has no bytes and no length to write (log 26). -/
def digestCall (data : Option Bytes) (tag : Nat) : List HostEvent :=
  match data with
  | some m => callSequence m (.digest true tag)
  | none => [.command (.digest false tag), .pollIdle]

/-- The value that the host read last: after the wait of step 4, STATUS. -/
def lastRead (s : State) : Word := s.hostReads.headD 0

/-- ERR as the host finds it in a STATUS word: bits [7:4] (10_state.md R26). -/
def errOfStatus (status : Word) : BitVec 4 := status.extractLsb' 4 4

/-- The error kind of a code, by the table of 60_exceptions.md R250; 0 is success, and 6 to 15 are in no row of it. -/
def errorOfCode (e : BitVec 4) : Option CmdError :=
  if e = 1 then some .invalidInput
  else if e = 2 then some .unsupportedAlgorithm
  else if e = 3 then some .alreadyFinalized
  else if e = 4 then some .lengthOutOfRange
  else if e = 5 then some .illegalCommand
  else none

/-- Step 5, what the host issues once it has read `status`: "If ERR = 0, read the 64 characters from HEX", as 16 words. That
they are read from the lowest offset up is the model's choice (log 28). -/
def resultReads (status : Word) : List HostEvent :=
  if errOfStatus status = 0 then (List.range 16).map fun k => .read (offHex (4 * k)) else []

/-- Step 5, what the call returns, from the STATUS word and the HEX words in the order they were read, which is the order of
their offsets (log 28): the characters, or the error kind. -/
def callAnswer (status : Word) (words : List Word) : Option (Except CmdError Bytes) :=
  if errOfStatus status = 0 then some (.ok (words.flatMap le32Bytes)) else (errorOfCode (errOfStatus status)).map .error

end Sys2Proof.Machine
end

