-- ==== Sys2Proof/Machine/Step.lean ====
section
/-! DEFINITION. One step of the machine: a host step, the engine's completion, or reset (20_memory.md R68,
70_reset_and_hazards.md R280). -/

namespace Sys2Proof.Machine

/-- One step, by whichever agent moves next. -/
def step (s : State) : Host.Outcome State Fault Refusal := agentStep s

/-- The state in which the host's very next transaction delivers the command word `w` to CMD while the block is IDLE, the
phase in which a command word is accepted (10_state.md R24, log 20). The block has no fetch of its own (10_state.md R21). -/
def State.withFetchWord (s : State) (nbits w : Nat) : State :=
  { s with
    program := .write offCmd (BitVec.ofNat 32 (w % 2 ^ nbits)) :: s.program
    busy := false }

end Sys2Proof.Machine
end

