-- ==== Sys2Proof/Machine/System.lean ====
section
/-! DEFINITION. Several instances in one system (60_exceptions.md R272): each has its own BASE and its own state, and they
share only the constant tables. -/

namespace Sys2Proof.Machine

/-- One instance in a system, "each at its own BASE" (R272, 00_scope.md R5). -/
structure Placed where
  /-- BASE: the host bus address of the window's offset 0. R5 says "any address" and gives a host bus address no width: the 32
  bits are the model's choice (log 16). -/
  base : Word
  /-- The instance's own state. -/
  core : State
  deriving DecidableEq, Repr

/-- A system: its instances. Their number is open (00_scope.md R5). -/
abbrev System := List Placed

/-- The host bus address of an offset of an instance: relative to its BASE (20_memory.md R51). That the sum wraps modulo 2^32
is the model's choice (log 16). -/
def Placed.busAddress (p : Placed) (off : Word) : Word := p.base + off

/-- Instance `k` takes a step; the others do not move. There is no step of an instance that is not there. -/
def System.stepAt : System → Nat → Option (Host.Outcome System Fault Refusal)
  | [], _ => none
  | p :: rest, 0 =>
    some (match step p.core with
      | .next s => .next ({ p with core := s } :: rest)
      | .fault f => .fault f
      | .refused r => .refused r)
  | p :: rest, k + 1 =>
    match System.stepAt rest k with
    | some (.next sys) => some (.next (p :: sys))
    | some (.fault f) => some (.fault f)
    | some (.refused r) => some (.refused r)
    | none => none

end Sys2Proof.Machine
end

