-- ==== Sys2Proof/Safety.lean ====
section
/-! DEFINITION. What every reachable state satisfies and what a safe run is: the invariant of the block
(10_state.md R30, R31, R34, R36, R43; 43_hex_encoder.md R202) and the views that claims compare states by. -/

namespace Sys2Proof.Machine

/-- MSG_BUF_BYTES is admissible: "a multiple of 4, with 256 <= MSG_BUF_BYTES <= 2^32 - 4096" (00_scope.md R5). -/
def capAdmissible (cap : Nat) : Prop := cap % 4 = 0 ∧ 256 ≤ cap ∧ cap ≤ 2 ^ 32 - 4096

/-- The ERR values that can appear (10_state.md R30). -/
def errLegal (e : BitVec 4) : Prop := e = 0 ∨ e = 1 ∨ e = 2 ∨ e = 4 ∨ e = 5

/-- One of the 16 lowercase hex characters (43_hex_encoder.md R201). -/
def isLowerHex (b : Byte) : Prop := (0x30 ≤ b.toNat ∧ b.toNat ≤ 0x39) ∨ (0x61 ≤ b.toNat ∧ b.toNat ≤ 0x66)

/-- HEX holds either its reset value or 64 lowercase hex characters (10_state.md R33, 43_hex_encoder.md R202). -/
def hexLegal (h : HexChars) : Prop := h = Vector.replicate 64 0 ∨ ∀ j, j < 64 → isLowerHex (nth h j)

/-- MSG is in its canonical form and lists bytes of the buffer only (10_state.md R34). -/
def msgLegal (s : State) : Prop := Memory.wf s.msg = true ∧ Memory.below s.msgcap.toNat s.msg = true

/-- While BUSY = 1 the latch holds the accepted command: CMD decodes to it, LEN_L = LEN, and a command that reads the
message has it inside the buffer (10_state.md R36, R43; 44_dispatch.md R224). -/
def busyLegal (s : State) : Prop :=
  s.done = false ∧ s.err = 0 ∧ s.opL = fieldOp s.cmd ∧ s.algL = fieldAlg s.cmd ∧ s.lenL = s.len ∧
  (∃ i, latchedInstr s = some i ∧ decode s.cmd = .ok i) ∧
  (s.opL ≠ 4 → s.lenL.toNat ≤ s.msgcap.toNat)

/-- `DONE = 0` and `BUSY = 0` hold only after reset, before the first command (10_state.md R28). -/
def freshLegal (s : State) : Prop := s.cmd = 0 ∧ s.err = 0 ∧ s.hex = Vector.replicate 64 0

/-- The invariant of the block. -/
def State.Inv (s : State) : Prop :=
  capAdmissible s.msgcap.toNat ∧ errLegal s.err ∧ hexLegal s.hex ∧ msgLegal s ∧
  (s.busy = true → busyLegal s) ∧ (s.busy = false → s.done = false → freshLegal s)

/-- A step that goes on: neither a fault nor a refusal. -/
def SafeStep (s : State) : Prop := ∃ t, step s = .next t

/-- `n` steps from `s` arrive at `t` with no fault and no refusal on the way. -/
inductive Steps : Nat → State → State → Prop where
  | refl (s : State) : Steps 0 s s
  | tail {n : Nat} {s t u : State} (first : step s = .next t) (more : Steps n t u) : Steps (n + 1) s u

/-- Checks 2 to 4 of 44_dispatch.md R223: the command passes them in this state. -/
def PassesChecks (i : Instr) (s : State) : Prop :=
  match i with
  | .digest srcv tag => srcv = true ∧ s.len.toNat ≤ s.msgcap.toNat ∧ (tag = 0 ∨ tag = 1)
  | .sha256 srcv => srcv = true ∧ s.len.toNat ≤ s.msgcap.toNat
  | .sha3_256 srcv => srcv = true ∧ s.len.toNat ≤ s.msgcap.toNat
  | .hexenc => True

/-- What `t` keeps of `s` whatever a command does: CMD, LEN, WIGN, MSGCAP, every byte of MSG, and the host's own part. -/
def KeepsRest (s t : State) : Prop :=
  t.cmd = s.cmd ∧ t.len = s.len ∧ t.wign = s.wign ∧ t.msgcap = s.msgcap ∧ (∀ a, msgByte t a = msgByte s a) ∧
  t.program = s.program ∧ t.hostReads = s.hostReads

/-- The outputs that the completion of a command leaves in `t`, from the message and the digest in `s`
(44_dispatch.md R224). -/
def OutputsOf (i : Instr) (s t : State) : Prop :=
  match i with
  | .digest _ tag => t.digest = hashByTag tag (message s) ∧ t.hex = hexEncode (hashByTag tag (message s))
  | .sha256 _ => t.digest = sha256 (message s) ∧ t.hex = s.hex
  | .sha3_256 _ => t.digest = sha3_256 (message s) ∧ t.hex = s.hex
  | .hexenc => t.digest = s.digest ∧ t.hex = hexEncode s.digest

/-- Two states look the same to the host: every host-visible register and every byte of MSG agree, and so does the host's own
part. The internal state of 10_state.md R35 to R39 is left out (R37). -/
def VisiblyEqual (s t : State) : Prop :=
  s.cmd = t.cmd ∧ s.len = t.len ∧ s.busy = t.busy ∧ s.done = t.done ∧ s.wign = t.wign ∧ s.err = t.err ∧
  s.msgcap = t.msgcap ∧ s.digest = t.digest ∧ s.hex = t.hex ∧ (∀ i, msgByte s i = msgByte t i) ∧
  s.program = t.program ∧ s.hostReads = t.hostReads

/-- The model's own schedule and draws agree, so that both states face the same LATENCY and the same free values. -/
def SameSchedule (s t : State) : Prop :=
  s.wait = t.wait ∧ s.latencies = t.latencies ∧ s.epoch = t.epoch ∧ s.draws = t.draws

end Sys2Proof.Machine
end

