-- ==== Sys2Proof/Certificates/Slice0/Obligations.lean ====
section
/-! DEFINITION. The statements for the provers. Each docstring names the rules of spec/ that it formalises. -/

open Sys2Proof Sys2Proof.Machine

/-! ### Encoding -/

/-- 30_encoding.md R90: each pseudo-command assembles to its word, and the word decodes to the command it expands to. -/
def Obligations.PseudoCommandsAssemble : Prop :=
  (encode (.digest true 0) = 0x00000101 ∧ decode 0x00000101 = .ok (.digest true 0)) ∧
  (encode (.digest true 1) = 0x00010101 ∧ decode 0x00010101 = .ok (.digest true 1)) ∧
  (encode (.digest false 0) = 0x00000001 ∧ decode 0x00000001 = .ok (.digest false 0)) ∧
  (encode (.digest false 1) = 0x00010001 ∧ decode 0x00010001 = .ok (.digest false 1)) ∧
  (encode (.sha256 true) = 0x00000102 ∧ decode 0x00000102 = .ok (.sha256 true)) ∧
  (encode (.sha3_256 true) = 0x00000103 ∧ decode 0x00000103 = .ok (.sha3_256 true))

/-- 30_encoding.md R87: which words are illegal, field by field; every other word is a command; and an illegal word written
to CMD in IDLE completes at once with ERR = 5 and changes no output. -/
def Obligations.IllegalWordsExactly : Prop :=
  ∀ c : Word,
    (decode c = .error .illegalCommand ↔
      fieldOp c = 0 ∨ 5 ≤ (fieldOp c).toNat ∨ fieldRsv0 c ≠ 0 ∨ fieldRsv1 c ≠ 0 ∨ fieldRsv2 c ≠ 0 ∨
      (fieldOp c ≠ 1 ∧ fieldAlg c ≠ 0) ∨ (fieldOp c = 4 ∧ fieldSrcv c = true)) ∧
    ((∃ i, decode c = .ok i) ∨ decode c = .error .illegalCommand) ∧
    (decode c = .error .illegalCommand → ∀ (s : State) (off : Word), s.busy = false → wordOffset off = 0 →
      ∃ t, busWrite off c s = .next t ∧ t.err = 5 ∧ t.done = true ∧ t.busy = false ∧
        t.digest = s.digest ∧ t.hex = s.hex)

/-- 30_encoding.md section 2: the four rows of the opcode map are pairwise disjoint. -/
def Obligations.OpcodeRowsDisjoint : Prop :=
  opTable.Pairwise fun r r' => ∀ c : Word, ¬ (r.holds c = true ∧ r'.holds c = true)

/-- 30_encoding.md sections 2 and 4: decoding the assembled word of a well-formed command gives the command back, with
every operand at every value the encoding admits. -/
def Obligations.DecodeOfEncode : Prop :=
  ∀ i : Instr, i.wellFormed = true → decode (encode i) = .ok i

/-- 30_encoding.md sections 2 and 4: a word that decodes is the assembled word of what it decodes to. -/
def Obligations.EncodeOfDecode : Prop :=
  ∀ (c : Word) (i : Instr), decode c = .ok i → i.wellFormed = true ∧ encode i = c

/-! ### The bus -/

/-- 20_memory.md R58: what BusRead returns at every offset, and that it changes nothing in the block. -/
def Obligations.BusReadByOffset : Prop :=
  ∀ (s : State) (off : Word),
    (wordOffset off = 0x000 → busRead s off = s.cmd) ∧
    (wordOffset off = 0x004 → busRead s off = s.len) ∧
    (wordOffset off = 0x008 → busRead s off =
      (s.err.setWidth 32 <<< 4 ||| (if s.wign then (1 : Word) else 0) <<< 2 |||
        (if s.done then (1 : Word) else 0) <<< 1 ||| (if s.busy then (1 : Word) else 0))) ∧
    (wordOffset off = 0x00C → busRead s off = s.msgcap) ∧
    (∀ k, k < 8 → wordOffset off = 0x020 + 4 * k → busRead s off =
      le32 (nth s.digest (4 * k)) (nth s.digest (4 * k + 1)) (nth s.digest (4 * k + 2)) (nth s.digest (4 * k + 3))) ∧
    (∀ k, k < 16 → wordOffset off = 0x040 + 4 * k → busRead s off =
      le32 (nth s.hex (4 * k)) (nth s.hex (4 * k + 1)) (nth s.hex (4 * k + 2)) (nth s.hex (4 * k + 3))) ∧
    (wordOffset off = 0x080 → busRead s off = 0) ∧
    (∀ k, k < s.msgcap.toNat / 4 → wordOffset off = 0x1000 + 4 * k → busRead s off =
      le32 (msgByte s (4 * k)) (msgByte s (4 * k + 1)) (msgByte s (4 * k + 2)) (msgByte s (4 * k + 3))) ∧
    (¬ (wordOffset off < 0x010 ∨ (0x020 ≤ wordOffset off ∧ wordOffset off < 0x084) ∨
        (0x1000 ≤ wordOffset off ∧ wordOffset off < 0x1000 + 4 * (s.msgcap.toNat / 4))) → busRead s off = 0) ∧
    hostStep (.read off) s = .next { s with hostReads := busRead s off :: s.hostReads }

/-- 20_memory.md R52: an unmapped word reads 0 and ignores writes in either phase, WIGN included, and no access at any
offset stops the machine. -/
def Obligations.UnmappedAccess : Prop :=
  ∀ (s : State) (off data : Word),
    ((0x010 ≤ wordOffset off ∧ wordOffset off < 0x020) ∨ (0x084 ≤ wordOffset off ∧ wordOffset off < 0x1000) ∨
      0x1000 + 4 * (s.msgcap.toNat / 4) ≤ wordOffset off →
      busRead s off = 0 ∧ busWrite off data s = .next s) ∧
    ∃ t, busWrite off data s = .next t

/-- 20_memory.md R56: every transaction addresses the aligned word, whatever the low two bits, and none faults. -/
def Obligations.OffsetLowBitsIgnored : Prop :=
  ∀ (s : State) (off off' data : Word), off &&& ~~~(3 : Word) = off' &&& ~~~(3 : Word) →
    busRead s off = busRead s off' ∧ busWrite off data s = busWrite off' data s ∧ ∃ t, busWrite off data s = .next t

/-- 10_state.md R31: MSGCAP reads MSG_BUF_BYTES, ignores writes without setting WIGN, and no step changes it, reset
included. -/
def Obligations.MsgcapIsConstant : Prop :=
  (∀ (s : State) (off data : Word), wordOffset off = 0x00C →
    busRead s off = s.msgcap ∧ busWrite off data s = .next s) ∧
  State.reset.msgcap = BitVec.ofNat 32 Config.msgBufBytes ∧
  ∀ s t : State, step s = .next t → t.msgcap = s.msgcap

/-- 10_state.md R26: the layout of STATUS, bit by bit, the one effect of writing it, in either phase, and its reset value. -/
def Obligations.StatusLayoutAndWrite : Prop :=
  (∀ (s : State) (off : Word), wordOffset off = 0x008 →
    (∀ i, i < 32 → (busRead s off).getLsbD i =
      if i = 0 then s.busy else if i = 1 then s.done else if i = 2 then s.wign
      else if 4 ≤ i ∧ i < 8 then s.err.getLsbD (i - 4) else false) ∧
    ∀ data : Word, busWrite off data s = .next (if data.getLsbD 2 = true then { s with wign := false } else s)) ∧
  ∀ off : Word, wordOffset off = 0x008 → busRead State.reset off = 0

/-- 20_memory.md R61: a CMD write while BUSY = 1 is dropped and sets WIGN; in IDLE the word is stored and accepted. -/
def Obligations.CmdWrite : Prop :=
  ∀ (s : State) (off data : Word), wordOffset off = 0x000 →
    (s.busy = true → busWrite off data s = .next { s with wign := true }) ∧
    (s.busy = false → busWrite off data s = accept data { s with cmd := data })

/-- 20_memory.md R63: a LEN write while BUSY = 1 is ignored and sets WIGN; in IDLE every value is stored, unchecked. -/
def Obligations.LenWrite : Prop :=
  ∀ (s : State) (off data : Word), wordOffset off = 0x004 →
    (s.busy = true → busWrite off data s = .next { s with wign := true }) ∧
    (s.busy = false → busWrite off data s = .next { s with len := data })

/-- 20_memory.md R62: a write of MSG word `k` while BUSY = 1 is ignored and sets WIGN; in IDLE it stores the four bytes of
the word, least significant first, and changes no other byte of MSG and nothing else. -/
def Obligations.MsgWordWrite : Prop :=
  ∀ (s : State) (off data : Word) (k : Nat), k < s.msgcap.toNat / 4 → wordOffset off = 0x1000 + 4 * k →
    (s.busy = true → busWrite off data s = .next { s with wign := true }) ∧
    (s.busy = false → ∃ t, busWrite off data s = .next t ∧
      (∀ i, i < 4 → msgByte t (4 * k + i) = data.extractLsb' (8 * i) 8) ∧
      (∀ a, a < 4 * k ∨ 4 * k + 4 ≤ a → msgByte t a = msgByte s a) ∧
      t = { s with msg := t.msg })

/-- 20_memory.md R65: a write of DIGEST word `k` while BUSY = 1 is ignored and sets WIGN; in IDLE it stores the four bytes
of the word, least significant first, and changes no other byte of DIGEST and nothing else. -/
def Obligations.DigestWordWrite : Prop :=
  ∀ (s : State) (off data : Word) (k : Nat), k < 8 → wordOffset off = 0x020 + 4 * k →
    (s.busy = true → busWrite off data s = .next { s with wign := true }) ∧
    (s.busy = false → ∃ t, busWrite off data s = .next t ∧
      (∀ i, i < 4 → nth t.digest (4 * k + i) = data.extractLsb' (8 * i) 8) ∧
      (∀ a, a < 32 → a < 4 * k ∨ 4 * k + 4 ≤ a → nth t.digest a = nth s.digest a) ∧
      t = { s with digest := t.digest })

/-- 20_memory.md sections 2 and 4: a word written in IDLE to LEN, to DIGEST or to MSG reads back as it was written. -/
def Obligations.WrittenWordReadsBack : Prop :=
  ∀ (s : State) (off data : Word), s.busy = false →
    (wordOffset off = 0x004 ∨ (0x020 ≤ wordOffset off ∧ wordOffset off < 0x040) ∨
      (0x1000 ≤ wordOffset off ∧ wordOffset off < 0x1000 + 4 * (s.msgcap.toNat / 4))) →
    ∃ t, busWrite off data s = .next t ∧ busRead t off = data

/-- 20_memory.md R66: a write to MSGCAP or to HEX has no effect in either phase and does not set WIGN. -/
def Obligations.OutputRegistersIgnoreWrites : Prop :=
  ∀ (s : State) (off data : Word),
    (wordOffset off = 0x00C ∨ (0x040 ≤ wordOffset off ∧ wordOffset off ≤ 0x080)) → busWrite off data s = .next s

/-- 43_hex_encoder.md R203: bytes 64 to 67 of HEX are the constant 0x00, and the word at 0x080 reads 0. -/
def Obligations.HexTerminator : Prop :=
  ∀ s : State, (∀ j, 64 ≤ j → j ≤ 67 → hexByte s j = 0x00) ∧
    ∀ off : Word, wordOffset off = 0x080 → busRead s off = 0x00000000

/-- 10_state.md section 2: a write to CMD, LEN, DIGEST or MSG while BUSY = 1 only sets WIGN; no other step sets it (a
completion, which is the step where the latency is over, among them); and only a STATUS write with bit 2 or reset clears
it. Which event of the host's program is next is the model's notation (log 1), and when the latency is over its schedule
(log 2). -/
def Obligations.WignChangesOnlyByRule : Prop :=
  (∀ (s : State) (off data : Word), s.busy = true →
    (targetIn s off = .cmd ∨ targetIn s off = .len ∨ (∃ k, targetIn s off = .digest k) ∨ ∃ k, targetIn s off = .msg k) →
    busWrite off data s = .next { s with wign := true }) ∧
  ∀ s t : State, step s = .next t →
    (s.wign = false → t.wign = true → s.busy = true ∧ s.wait ≠ 0 ∧ ∃ off data rest, s.program = .write off data :: rest ∧
      (targetIn s off = .cmd ∨ targetIn s off = .len ∨ (∃ k, targetIn s off = .digest k) ∨
        ∃ k, targetIn s off = .msg k)) ∧
    (s.wign = true → t.wign = false →
      ((s.busy = false ∨ s.wait ≠ 0) ∧
        ∃ off data rest, s.program = .write off data :: rest ∧ targetIn s off = .status ∧ data.getLsbD 2 = true) ∨
      ∃ rest, s.program = .reset :: rest)

/-! ### A command's life -/

/-- 20_memory.md section 4, 44_dispatch.md section 1: a command word at the head of the host's program is run by `exec` in
IDLE, with the word stored in CMD; and at the engine's turn the command in flight is run by `exec`. -/
def Obligations.AStepRunsTheCommand : Prop :=
  (∀ (s : State) (off c : Word) (rest : List HostEvent) (i : Instr), s.program = .write off c :: rest →
    wordOffset off = 0x000 → s.busy = false → decode c = .ok i →
    step s = exec i { s with program := rest, wait := s.wait - 1, cmd := c }) ∧
  ∀ (s : State) (i : Instr), s.busy = true → (s.program = [] ∨ s.wait = 0) →
    (∀ rest, s.program ≠ .reset :: rest) → latchedInstr s = some i → step s = exec i s

/-- 44_dispatch.md section 1: what every word written to CMD in IDLE does, by the checks in their order. That the latch takes OP,
ALG and LEN of a rejected word too is the model's inference (log 10). -/
def Obligations.AcceptanceOfEveryWord : Prop :=
  ∀ (s : State) (off c : Word), s.busy = false → wordOffset off = 0x000 →
    let legal := c &&& 0xFF00FEFF = 0x00000001 ∨ c &&& 0xFFFFFEFF = 0x00000002 ∨ c &&& 0xFFFFFEFF = 0x00000003 ∨
      c = 0x00000004
    let code : BitVec 4 :=
      if ¬ legal then 5
      else if fieldOp c ≠ 4 ∧ fieldSrcv c = false then 1
      else if fieldOp c ≠ 4 ∧ s.msgcap.toNat < s.len.toNat then 4
      else if fieldOp c = 1 ∧ fieldAlg c ≠ 0 ∧ fieldAlg c ≠ 1 then 2
      else 0
    ∃ t, busWrite off c s = .next t ∧ t.cmd = c ∧ t.opL = fieldOp c ∧ t.algL = fieldAlg c ∧ t.lenL = s.len ∧
      t.err = code ∧ t.busy = decide (code = 0) ∧ t.done = decide (code ≠ 0) ∧ t.digest = s.digest ∧ t.hex = s.hex

/-- 60_exceptions.md R261: a word that is rejected leaves DIGEST, HEX, LEN, MSG, MSGCAP and WIGN as they were, and starts
no engine. -/
def Obligations.RejectionChangesNothingElse : Prop :=
  ∀ (s t : State) (off c : Word), s.busy = false → wordOffset off = 0x000 → busWrite off c s = .next t → t.err ≠ 0 →
    t.digest = s.digest ∧ t.hex = s.hex ∧ t.len = s.len ∧ (∀ a, msgByte t a = msgByte s a) ∧ t.msgcap = s.msgcap ∧
    t.wign = s.wign ∧ t.sha = s.sha ∧ t.keccak = s.keccak ∧ t.busy = false ∧
    t.program = s.program ∧ t.hostReads = s.hostReads

/-- 44_dispatch.md section 1: every command that passes its checks is accepted: the flags, the latch, and the frame. The
engine's state is created: IV for SHA-256, and the first padded block XORed into zero for Keccak (10_state.md section 3).
The order of events inside the start of an engine is the model's (log 18), and so is that an engine the command does not run is
kept as it was (log 29). -/
def Obligations.PassingCommandIsAccepted : Prop :=
  ∀ (i : Instr) (s : State), s.busy = false → PassesChecks i s →
    ∃ t, exec i s = .next t ∧ t.busy = true ∧ t.done = false ∧ t.err = 0 ∧ latchedInstr t = some i ∧ t.lenL = s.len ∧
      t.digest = s.digest ∧ t.hex = s.hex ∧ KeepsRest s t ∧
      (usesSha256 t = true → t.sha.hash = sha256IV ∧ t.sha.blockIndex = 0 ∧ t.sha.roundIndex = 0) ∧
      (usesSha256 t = false → t.sha = s.sha) ∧
      (usesSha3_256 t = true → t.keccak.lanes = xorBlock zeroLanes (block3 (pad3 (message t)) 0) ∧
        t.keccak.blockIndex = 0 ∧ t.keccak.roundIndex = 0) ∧
      (usesSha3_256 t = false → t.keccak = s.keccak)

/-- 44_dispatch.md section 1, 60_exceptions.md section 2: every command that fails a check is rejected at once, with the
error of the first check that fails, and changes nothing visible but ERR and DONE. -/
def Obligations.FailingCommandIsRejected : Prop :=
  ∀ (i : Instr) (s : State), s.busy = false → ¬ PassesChecks i s →
    ∃ t, exec i s = .next t ∧ t.busy = false ∧ t.done = true ∧
      (match i with
        | .digest srcv _ => t.err = if srcv = false then 1 else if s.msgcap.toNat < s.len.toNat then 4 else 2
        | .sha256 srcv => t.err = if srcv = false then 1 else 4
        | .sha3_256 srcv => t.err = if srcv = false then 1 else 4
        | .hexenc => False) ∧
      t.digest = s.digest ∧ t.hex = s.hex ∧ KeepsRest s t ∧ t.sha = s.sha ∧ t.keccak = s.keccak

/-- 44_dispatch.md sections 1 and 2: DIGEST in flight completes: DIGEST holds the digest its tag names, HEX its hex
characters, and nothing else visible changes but BUSY and DONE. -/
def Obligations.DigestCompletes : Prop :=
  ∀ s : State, s.busy = true → s.opL = 0x1 →
    (s.algL = 0x00 → ∃ t, exec (.digest true 0) s = .next t ∧ t.digest = sha256 (message s) ∧
      t.hex = hexEncode (sha256 (message s)) ∧ t.busy = false ∧ t.done = true ∧ t.err = s.err ∧ KeepsRest s t) ∧
    (s.algL = 0x01 → ∃ t, exec (.digest true 1) s = .next t ∧ t.digest = sha3_256 (message s) ∧
      t.hex = hexEncode (sha3_256 (message s)) ∧ t.busy = false ∧ t.done = true ∧ t.err = s.err ∧ KeepsRest s t)

/-- 41_sha256.md section 6, 42_sha3_256.md section 4: SHA256 and SHA3_256 in flight complete: DIGEST holds the digest, HEX
keeps its old characters, and nothing else visible changes but BUSY and DONE. -/
def Obligations.EngineCommandsComplete : Prop :=
  ∀ s : State, s.busy = true →
    (s.opL = 0x2 → ∃ t, exec (.sha256 true) s = .next t ∧ t.digest = sha256 (message s) ∧ t.hex = s.hex ∧
      t.busy = false ∧ t.done = true ∧ t.err = s.err ∧ KeepsRest s t) ∧
    (s.opL = 0x3 → ∃ t, exec (.sha3_256 true) s = .next t ∧ t.digest = sha3_256 (message s) ∧ t.hex = s.hex ∧
      t.busy = false ∧ t.done = true ∧ t.err = s.err ∧ KeepsRest s t)

/-- 43_hex_encoder.md section on HEXENC: HEXENC in flight completes: HEX holds the characters of DIGEST, DIGEST is
unchanged, and nothing else visible changes but BUSY and DONE, whatever MSG and LEN hold. -/
def Obligations.HexencCompletes : Prop :=
  ∀ s : State, s.busy = true → s.opL = 0x4 →
    ∃ t, exec .hexenc s = .next t ∧ t.digest = s.digest ∧
      (∀ j, j < 32 → nth t.hex (2 * j) = hexDigit ((nth s.digest j).extractLsb' 4 4) ∧
        nth t.hex (2 * j + 1) = hexDigit ((nth s.digest j).extractLsb' 0 4)) ∧
      t.busy = false ∧ t.done = true ∧ t.err = s.err ∧ KeepsRest s t

/-- 44_dispatch.md section 1: the completion, as the step that the engine takes: the outputs by OP_L and ALG_L, `BUSY <- 0`,
`DONE <- 1`, and ERR as it was. When it is the engine's turn, with the program at its end or no host step left to fall, is
the model's schedule (log 2, 3). -/
def Obligations.CompletionStep : Prop :=
  ∀ s : State, s.busy = true → (s.program = [] ∨ s.wait = 0) → (∀ rest, s.program ≠ .reset :: rest) →
    (s.opL = 0x1 → s.algL = 0x00 → ∃ t, step s = .next t ∧ t.digest = sha256 (memRead s 0 s.lenL.toNat) ∧
      t.hex = hexEncode (sha256 (memRead s 0 s.lenL.toNat)) ∧ t.busy = false ∧ t.done = true ∧ t.err = s.err) ∧
    (s.opL = 0x1 → s.algL = 0x01 → ∃ t, step s = .next t ∧ t.digest = sha3_256 (memRead s 0 s.lenL.toNat) ∧
      t.hex = hexEncode (sha3_256 (memRead s 0 s.lenL.toNat)) ∧ t.busy = false ∧ t.done = true ∧ t.err = s.err) ∧
    (s.opL = 0x2 → ∃ t, step s = .next t ∧ t.digest = sha256 (memRead s 0 s.lenL.toNat) ∧ t.hex = s.hex ∧
      t.busy = false ∧ t.done = true ∧ t.err = s.err) ∧
    (s.opL = 0x3 → ∃ t, step s = .next t ∧ t.digest = sha3_256 (memRead s 0 s.lenL.toNat) ∧ t.hex = s.hex ∧
      t.busy = false ∧ t.done = true ∧ t.err = s.err) ∧
    (s.opL = 0x4 → ∃ t, step s = .next t ∧ t.digest = s.digest ∧ t.hex = hexEncode s.digest ∧
      t.busy = false ∧ t.done = true ∧ t.err = s.err)

/-- The model's own reading (log 11) of 44_dispatch.md section 1: another command than the one in flight is turned away with
none of its effect, and sets WIGN. -/
def Obligations.OtherCommandTurnedAway : Prop :=
  ∀ (i : Instr) (s : State), s.busy = true → latchedInstr s ≠ some i → exec i s = .next { s with wign := true }

/-- 10_state.md section 2: BUSY is set only by a CMD write whose word passes every check, and cleared only by the completion at
the engine's turn or by reset. The engine's turn, with the program at its end or no host step left to fall, is the model's
schedule (log 2, 3). -/
def Obligations.BusyChangesOnlyByRule : Prop :=
  ∀ s t : State, step s = .next t →
    (s.busy = false → t.busy = true → ∃ off c rest i, s.program = .write off c :: rest ∧ wordOffset off = 0x000 ∧
      decode c = .ok i ∧ PassesChecks i s) ∧
    (s.busy = true → t.busy = false →
      (s.program = [] ∨ s.wait = 0) ∨ ∃ rest, s.program = .reset :: rest)

/-- 10_state.md section 5 (an inference the spec marks as its own): as long as BUSY stays 1, CMD, LEN, MSG, DIGEST, HEX, ERR
and DONE stay as they are, whatever the host does. -/
def Obligations.FrozenWhileBusy : Prop :=
  ∀ s t : State, step s = .next t → s.busy = true → t.busy = true →
    t.cmd = s.cmd ∧ t.len = s.len ∧ t.digest = s.digest ∧ t.hex = s.hex ∧ (∀ a, msgByte t a = msgByte s a) ∧
    t.err = s.err ∧ t.done = s.done ∧ t.opL = s.opL ∧ t.algL = s.algL ∧ t.lenL = s.lenL

/-- 44_dispatch.md section 1, 10_state.md section 2: only a completion or reset changes HEX, and only a completion, reset or
a host write to DIGEST in IDLE changes DIGEST. -/
def Obligations.OutputsChangeOnlyByRule : Prop :=
  ∀ s t : State, step s = .next t →
    (t.hex ≠ s.hex → (∃ rest, s.program = .reset :: rest) ∨
      (s.busy = true ∧ t.busy = false ∧ (s.opL = 1 ∨ s.opL = 4))) ∧
    (t.digest ≠ s.digest → (∃ rest, s.program = .reset :: rest) ∨
      (s.busy = true ∧ t.busy = false ∧ (s.opL = 1 ∨ s.opL = 2 ∨ s.opL = 3)) ∨
      (s.busy = false ∧ ∃ off data rest k, s.program = .write off data :: rest ∧ targetIn s off = .digest k))

/-- 44_dispatch.md R227: the outputs of a command are a function of the command, LEN, `MSG[0 .. LEN)` and DIGEST at
acceptance: two states that agree on those, and on nothing else, get the same outputs. -/
def Obligations.OutputsDependOnInputsOnly : Prop :=
  ∀ (i : Instr) (s₁ s₂ : State), s₁.busy = false → s₂.busy = false → PassesChecks i s₁ → PassesChecks i s₂ →
    s₁.len = s₂.len → (∀ a, a < s₁.len.toNat → msgByte s₁ a = msgByte s₂ a) → s₁.digest = s₂.digest →
    ∃ u₁ t₁ u₂ t₂, exec i s₁ = .next u₁ ∧ exec i u₁ = .next t₁ ∧ exec i s₂ = .next u₂ ∧ exec i u₂ = .next t₂ ∧
      t₁.digest = t₂.digest ∧
      (match i with
        | .digest _ _ => t₁.hex = t₂.hex
        | .hexenc => t₁.hex = t₂.hex
        | .sha256 _ => t₁.hex = s₁.hex ∧ t₂.hex = s₂.hex
        | .sha3_256 _ => t₁.hex = s₁.hex ∧ t₂.hex = s₂.hex)

/-- 10_state.md R37: no internal state is observable: states that look the same to the host, under the same schedule, go on
looking the same, step by step, whatever their engines and latches hold. -/
def Obligations.InternalStateUnobservable : Prop :=
  ∀ s t s' : State, s.Inv → t.Inv → VisiblyEqual s t → SameSchedule s t → step s = .next s' →
    ∃ t', step t = .next t' ∧ VisiblyEqual s' t' ∧ SameSchedule s' t'

/-- 44_dispatch.md section 1, 70_reset_and_hazards.md section 4: for every LATENCY and whatever the host issues meanwhile
short of a reset, a command in flight completes, with ERR = 0 and with the outputs of its inputs as they stand in flight. -/
def Obligations.CommandRunsToItsResult : Prop :=
  ∀ (s : State) (i : Instr), s.Inv → s.busy = true → latchedInstr s = some i → .reset ∉ s.program →
    ∃ n t, n ≤ s.wait + 1 ∧ Steps n s t ∧ t.busy = false ∧ t.done = true ∧ t.err = 0 ∧ OutputsOf i s t ∧
      t.cmd = s.cmd ∧ t.len = s.len ∧ ∀ a, msgByte t a = msgByte s a

/-- 44_dispatch.md section 2 (the spec marks it as an inference): DIGEST, and the engine of its tag followed by HEXENC, leave
the same DIGEST, the same HEX and ERR = 0. -/
def Obligations.FacadeEqualsEngineThenHexenc : Prop :=
  ∀ s : State, s.busy = false → s.len.toNat ≤ s.msgcap.toNat →
    (∃ a b c d e f, exec (.digest true 0) s = .next a ∧ exec (.digest true 0) a = .next b ∧
      exec (.sha256 true) s = .next c ∧ exec (.sha256 true) c = .next d ∧ exec .hexenc d = .next e ∧
      exec .hexenc e = .next f ∧ b.digest = f.digest ∧ b.hex = f.hex ∧ b.err = 0 ∧ f.err = 0 ∧ d.hex = s.hex) ∧
    (∃ a b c d e f, exec (.digest true 1) s = .next a ∧ exec (.digest true 1) a = .next b ∧
      exec (.sha3_256 true) s = .next c ∧ exec (.sha3_256 true) c = .next d ∧ exec .hexenc d = .next e ∧
      exec .hexenc e = .next f ∧ b.digest = f.digest ∧ b.hex = f.hex ∧ b.err = 0 ∧ f.err = 0 ∧ d.hex = s.hex)

/-! ### Reset and the invariant -/

/-- 70_reset_and_hazards.md section 1: reset, in either phase and before any other step, gives every piece of the block's state
its reset value, aborts the command in flight and runs none; MSG holds what this reset draws. That a reset at the head of the
program comes first is the model's inference (log 4), and that MSG is the draw numbered `epoch + 1` its choice (log 5). The
zeros of the latch and of the engines are the model's choice (log 7) and are not stated. -/
def Obligations.ResetOverridesEverything : Prop :=
  ∀ (s : State) (rest : List HostEvent), s.program = .reset :: rest →
    ∃ t, step s = .next t ∧ t.cmd = 0 ∧ t.len = 0 ∧ t.busy = false ∧ t.done = false ∧ t.wign = false ∧ t.err = 0 ∧
      t.msgcap = s.msgcap ∧ (∀ j, j < 32 → nth t.digest j = 0x00) ∧ (∀ j, j < 68 → hexByte t j = 0x00) ∧
      (∀ a, msgByte t a = Config.msgByte t.epoch a) ∧ t.epoch = s.epoch + 1 ∧ t.program = rest

/-- 10_state.md section 4: the reset value of every host-visible register, read through the bus. -/
def Obligations.ResetReadsAsSpecified : Prop :=
  ∀ off : Word, wordOffset off < 0x1000 →
    busRead State.reset off = if wordOffset off = 0x00C then BitVec.ofNat 32 Config.msgBufBytes else 0

/-- The state after reset satisfies the invariant. -/
def Obligations.InvariantHoldsAtReset : Prop := State.reset.Inv

/-- 10_state.md sections 2, 3 and 5: every step keeps the invariant: an admissible MSG_BUF_BYTES, a legal ERR, a HEX of
zeros or of lowercase hex characters, MSG in canonical form inside the buffer, and in BUSY a latch that holds the command
in CMD. -/
def Obligations.StepKeepsInvariant : Prop := ∀ s t : State, s.Inv → step s = .next t → t.Inv

/-- 60_exceptions.md section 1: nothing stops the machine: every error is a next state, and no engine fails. -/
def Obligations.NoStepStops : Prop := ∀ s : State, s.Inv → SafeStep s

/-- 60_exceptions.md R272: a step of one instance changes no other instance and no BASE, and depends on that instance's
own state only. -/
def Obligations.InstancesAreIndependent : Prop :=
  ∀ (sys sys' : System) (k : Nat), System.stepAt sys k = some (.next sys') →
    sys'.length = sys.length ∧ (∀ j, j ≠ k → sys'[j]? = sys[j]?) ∧
    ∃ p t, sys[k]? = some p ∧ step p.core = .next t ∧ sys'[k]? = some { p with core := t }

/-- 30_encoding.md section 4: POLL reads again until the masked value is the one awaited, and each read reaches the host. -/
def Obligations.PollRepeatsUntilValue : Prop :=
  ∀ (s : State) (off mask value : Word) (rest : List HostEvent), s.program = .poll off mask value :: rest →
    (s.busy = false ∨ s.wait ≠ 0) →
    ∃ t, step s = .next t ∧ t.hostReads = busRead s off :: s.hostReads ∧
      t.program = (if busRead s off &&& mask = value then rest else s.program) ∧
      t = { s with program := t.program, hostReads := t.hostReads, wait := s.wait - 1 }

/-! ### SHA-256 -/

/-- 41_sha256.md section 1: the padded message is the message, 0x80, the least number of zeros that makes room for the
64-bit big-endian bit length, and that length; its blocks number `(L + 72) div 64`. -/
def Obligations.Pad256Shape : Prop :=
  ∀ m : Bytes, 8 * m.length < 2 ^ 64 → ∃ k, k < 64 ∧ (m.length + 1 + k) % 64 = 56 ∧
    (∀ k', (m.length + 1 + k') % 64 = 56 → k ≤ k') ∧
    (pad256 m).length = m.length + 9 + k ∧ (pad256 m).length = 64 * ((m.length + 72) / 64) ∧
    (∀ i, i < m.length → byteAt (pad256 m) i = byteAt m i) ∧ byteAt (pad256 m) m.length = 0x80 ∧
    (∀ i, m.length < i → i < m.length + 1 + k → byteAt (pad256 m) i = 0x00) ∧
    ∀ q, q < 8 → (byteAt (pad256 m) (m.length + 1 + k + q)).toNat = 8 * m.length / 2 ^ (8 * (7 - q)) % 256

/-- 41_sha256.md section 2: IV and K are the first 32 bits of the fractional parts of the square and cube roots of the first
primes, in exact integer arithmetic. -/
def Obligations.Sha256ConstantsAreRoots : Prop :=
  (∀ j, j < 8 → ∃ r, r ^ 2 ≤ Nat.nth Nat.Prime j * 2 ^ 64 ∧ Nat.nth Nat.Prime j * 2 ^ 64 < (r + 1) ^ 2 ∧
    (sha256IV.words.getD j 0).toNat = r % 2 ^ 32) ∧
  ∀ t, t < 64 → ∃ r, r ^ 3 ≤ Nat.nth Nat.Prime t * 2 ^ 96 ∧ Nat.nth Nat.Prime t * 2 ^ 96 < (r + 1) ^ 3 ∧
    (kConst t).toNat = r % 2 ^ 32

/-- 41_sha256.md R126 and R127: bit by bit, Ch chooses and Maj takes the majority, with the rules' corner cases and
examples. -/
def Obligations.ChooseAndMajorityBits : Prop :=
  (∀ x y z : Word, ch x y z = (x &&& y) ^^^ (~~~x &&& z) ∧ maj x y z = (x &&& y) ^^^ (x &&& z) ^^^ (y &&& z)) ∧
  (∀ (x y z : Word) (i : Nat), i < 32 →
    (ch x y z).getLsbD i = (if x.getLsbD i = true then y.getLsbD i else z.getLsbD i) ∧
    (maj x y z).getLsbD i = decide (2 ≤ (x.getLsbD i).toNat + (y.getLsbD i).toNat + (z.getLsbD i).toNat)) ∧
  (∀ y z : Word, ch 0 y z = z ∧ ch 0xffffffff y z = y) ∧
  ch 0xff00ff00 0x12345678 0x9abcdef0 = 0x12bc56f0 ∧ maj 0xf0f0f0f0 0xff00ff00 0xffff0000 = 0xfff0f000

/-- 41_sha256.md R128 to R131: the four sigma functions bit by bit: three rotations in the big ones, two rotations and a
shift that fills with zeros in the small ones, with the rules' examples. -/
def Obligations.SigmaBits : Prop :=
  (∀ (x : Word) (i : Nat), i < 32 →
    (bigSigma0 x).getLsbD i =
      (x.getLsbD ((i + 2) % 32) ^^ x.getLsbD ((i + 13) % 32) ^^ x.getLsbD ((i + 22) % 32)) ∧
    (bigSigma1 x).getLsbD i =
      (x.getLsbD ((i + 6) % 32) ^^ x.getLsbD ((i + 11) % 32) ^^ x.getLsbD ((i + 25) % 32)) ∧
    (smallSigma0 x).getLsbD i =
      (x.getLsbD ((i + 7) % 32) ^^ x.getLsbD ((i + 18) % 32) ^^ (decide (i + 3 < 32) && x.getLsbD (i + 3))) ∧
    (smallSigma1 x).getLsbD i =
      (x.getLsbD ((i + 17) % 32) ^^ x.getLsbD ((i + 19) % 32) ^^ (decide (i + 10 < 32) && x.getLsbD (i + 10)))) ∧
  bigSigma0 0x00000001 = 0x40080400 ∧ bigSigma0 0x6a09e667 = 0xce20b47e ∧
  bigSigma1 0x00000001 = 0x04200080 ∧ bigSigma1 0x510e527f = 0x3587272b ∧
  smallSigma0 0xffffffff = 0x1fffffff ∧ smallSigma0 0x00000001 = 0x02004000 ∧
  smallSigma1 0xffffffff = 0x003fffff ∧ smallSigma1 0x00000001 = 0x0000a000

/-- 41_sha256.md R132: the schedule has 64 words, the first 16 those of the block, and each later one the recurrence. -/
def Obligations.ScheduleRecurrence : Prop :=
  ∀ m : List Word, m.length = 16 →
    (schedule m).length = 64 ∧ (∀ t, t < 16 → (schedule m).getD t 0 = m.getD t 0) ∧
    ∀ t, 16 ≤ t → t < 64 → (schedule m).getD t 0 =
      smallSigma1 ((schedule m).getD (t - 2) 0) + (schedule m).getD (t - 7) 0 +
        smallSigma0 ((schedule m).getD (t - 15) 0) + (schedule m).getD (t - 16) 0

/-- 41_sha256.md R137: Digest byte `4j + q` is byte `q`, most significant first, of `H[j]` after the last block. -/
def Obligations.Sha256OutputBytes : Prop :=
  (∀ (h : EightWords) (j q : Nat), j < 8 → q < 4 →
    nth (digestOfHash h) (4 * j + q) = (h.words.getD j 0).extractLsb' (8 * (3 - q)) 8) ∧
  ∀ m : Bytes, sha256 m = digestOfHash (hashBlocks (pad256 m) ((pad256 m).length / 64))

/-- 41_sha256.md section 4: an iterative or unrolled engine, running SHA256 or DIGEST with tag 0, has the hash state of the
function after every number of cycles that makes up the 64 rounds of each block, for every UNROLL. That the feed takes no
round of its own is the model's choice (log 18). -/
def Obligations.Sha256EngineComputesTheFunction : Prop :=
  ∀ (i : Instr) (s t : State) (unroll cycles : Nat), i = .sha256 true ∨ i = .digest true 0 → s.busy = false →
    s.len.toNat ≤ s.msgcap.toNat → exec i s = .next t → 64 * ((s.len.toNat + 72) / 64) ≤ unroll * cycles →
    digestOfHash (engineCycles unroll t cycles).sha.hash = sha256 (message t)

/-! ### SHA3-256 -/

/-- 42_sha3_256.md section 1: the padded message is the message, then 0x86 alone, or 0x06, zeros and 0x80; its blocks number
`L div 136 + 1`. -/
def Obligations.Pad3Shape : Prop :=
  ∀ m : Bytes, (pad3 m).length = 136 * (m.length / 136 + 1) ∧
    (∀ i, i < m.length → byteAt (pad3 m) i = byteAt m i) ∧
    (m.length % 136 = 135 → byteAt (pad3 m) m.length = 0x86) ∧
    (m.length % 136 ≠ 135 → byteAt (pad3 m) m.length = 0x06 ∧ byteAt (pad3 m) ((pad3 m).length - 1) = 0x80 ∧
      ∀ i, m.length < i → i < (pad3 m).length - 1 → byteAt (pad3 m) i = 0x00)

/-- 42_sha3_256.md R167, R168, R171 and R172: θ, ρ, χ and ι lane by lane. -/
def Obligations.StepMappingsLanewise : Prop :=
  ∀ (A : Lanes) (x y ir : Nat), x < 5 → y < 5 →
    lane (theta A) x y = lane A x y ^^^
      ((lane A ((x + 4) % 5) 0 ^^^ lane A ((x + 4) % 5) 1 ^^^ lane A ((x + 4) % 5) 2 ^^^ lane A ((x + 4) % 5) 3 ^^^
          lane A ((x + 4) % 5) 4) ^^^
        rotl (lane A ((x + 1) % 5) 0 ^^^ lane A ((x + 1) % 5) 1 ^^^ lane A ((x + 1) % 5) 2 ^^^ lane A ((x + 1) % 5) 3 ^^^
          lane A ((x + 1) % 5) 4) 1) ∧
    lane (rho A) x y = (lane A x y).rotateLeft (rhoOffset x y) ∧
    lane (chi A) x y = lane A x y ^^^ (~~~(lane A ((x + 1) % 5) y) &&& lane A ((x + 2) % 5) y) ∧
    lane (iota A ir) x y = if x = 0 ∧ y = 0 then lane A 0 0 ^^^ roundConstant ir else lane A x y

/-- 42_sha3_256.md R170: π, read both ways. -/
def Obligations.PiMovesLanes : Prop :=
  ∀ (A : Lanes) (x y : Nat), x < 5 → y < 5 →
    lane (piStep A) x y = lane A ((x + 3 * y) % 5) x ∧ lane (piStep A) y ((2 * x + 3 * y) % 5) = lane A x y

/-- 42_sha3_256.md section 2: the rho offsets are those of the walk, and the round constants those of the LFSR
`x^8 + x^6 + x^5 + x^4 + 1`. How the LFSR starts and shifts is FIPS 202's (log 25). -/
def Obligations.KeccakTablesFollowTheirRules : Prop :=
  (rhoOffset 0 0 = 0 ∧ ∀ t, t < 24 →
    let xy : Nat × Nat := Nat.rec (1, 0) (fun _ p => (p.2, (2 * p.1 + 3 * p.2) % 5)) t
    rhoOffset xy.1 xy.2 = (t + 1) * (t + 2) / 2 % 64) ∧
  ∀ ir, ir < 24 → ∀ b, b < 64 →
    let rc : Nat → Bool := fun t =>
      (Nat.rec (1 : BitVec 9) (fun _ r => if r.getLsbD 7 then r <<< 1 ^^^ 0x171 else r <<< 1) t : BitVec 9).getLsbD 0
    (roundConstant ir).getLsbD b =
      (decide (b = 0) && rc (7 * ir) || decide (b = 1) && rc (1 + 7 * ir) || decide (b = 3) && rc (2 + 7 * ir) ||
        decide (b = 7) && rc (3 + 7 * ir) || decide (b = 15) && rc (4 + 7 * ir) || decide (b = 31) && rc (5 + 7 * ir) ||
        decide (b = 63) && rc (6 + 7 * ir))

/-- 42_sha3_256.md R164: a block is XORed into lanes 0 to 16, the capacity lanes 17 to 24 are left alone, and then the
permutation runs. -/
def Obligations.AbsorbXorsTheRate : Prop :=
  ∀ (A : Lanes) (b : Bytes), ∃ B : Lanes, absorb A b = keccakF B ∧
    (∀ i, i < 17 → lane B (i % 5) (i / 5) = lane A (i % 5) (i / 5) ^^^ le64 (byteAt b (8 * i)) (byteAt b (8 * i + 1))
      (byteAt b (8 * i + 2)) (byteAt b (8 * i + 3)) (byteAt b (8 * i + 4)) (byteAt b (8 * i + 5))
      (byteAt b (8 * i + 6)) (byteAt b (8 * i + 7))) ∧
    ∀ i, 17 ≤ i → i < 25 → lane B (i % 5) (i / 5) = lane A (i % 5) (i / 5)

/-- 42_sha3_256.md R165: Keccak-f[1600] is the 24 rounds in order, and it is a permutation of the state. -/
def Obligations.KeccakFIsAPermutation : Prop :=
  (∀ A : Lanes, keccakF A = (List.range 24).foldl keccakRound A) ∧ Function.Bijective keccakF

/-- 42_sha3_256.md R175: the Digest is the first 32 bytes of the state, lane by lane, least significant byte first, and no
permutation follows the last absorb. -/
def Obligations.SqueezeBytes : Prop :=
  (∀ (A : Lanes) (x q : Nat), x < 4 → q < 8 → nth (squeeze A) (8 * x + q) = (lane A x 0).extractLsb' (8 * q) 8) ∧
  ∀ m : Bytes, sha3_256 m = squeeze (absorbBlocks (pad3 m) ((pad3 m).length / 136))

/-- 42_sha3_256.md section 2: an iterative or unrolled engine, running SHA3_256 or DIGEST with tag 1, has the state of the
function after every number of cycles that makes up the 24 rounds of each block, for every UNROLL. That the next block takes
no round of its own is the model's choice (log 18). -/
def Obligations.Sha3EngineComputesTheFunction : Prop :=
  ∀ (i : Instr) (s t : State) (unroll cycles : Nat), i = .sha3_256 true ∨ i = .digest true 1 → s.busy = false →
    s.len.toNat ≤ s.msgcap.toNat → exec i s = .next t → 24 * (s.len.toNat / 136 + 1) ≤ unroll * cycles →
    squeeze (engineCycles unroll t cycles).keccak.lanes = sha3_256 (message t)

/-! ### The hex encoder -/

/-- 43_hex_encoder.md R201: the two digits of every byte, high nibble first, with the codes of '0'-'9' and 'a'-'f'. -/
def Obligations.HexDigitsOfEveryByte : Prop :=
  (∀ v : BitVec 4, (v.toNat ≤ 9 → (hexDigit v).toNat = 0x30 + v.toNat) ∧
    (10 ≤ v.toNat → (hexDigit v).toNat = 0x61 + (v.toNat - 10))) ∧
  ∀ (D : Digest) (j : Nat), j < 32 →
    nth (hexEncode D) (2 * j) = hexDigit ((nth D j).extractLsb' 4 4) ∧
    nth (hexEncode D) (2 * j + 1) = hexDigit ((nth D j).extractLsb' 0 4)

/-- 43_hex_encoder.md section on the encode function (the spec marks it as an inference): the encoding is injective, and all
64 characters are lowercase hex digits. -/
def Obligations.HexEncodingInjective : Prop :=
  (∀ D D' : Digest, hexEncode D = hexEncode D' → D = D') ∧ ∀ (D : Digest) (j : Nat), j < 64 → isLowerHex (nth (hexEncode D) j)

/-! ### The call contract -/

/-- 44_dispatch.md section 2 (the spec marks it as an inference): the call contract from its first write to its answer. Under
every LATENCY, `digest(m, tag)` of a message that fits returns the hex characters of the digest for a valid tag and
UnsupportedAlgorithm for any other, and `digest(null, tag)` returns InvalidInput. What a null call writes is the model's
reading (log 26), the order of the words written and read and the 0x00 beyond the data its choice (log 28), and the host's
program and turn its notation (log 1, 2, 3). -/
def Obligations.CallReturnsItsAnswer : Prop :=
  ∀ (s : State) (m : Bytes) (tag : Nat), s.Inv → s.busy = false → m.length ≤ s.msgcap.toNat → tag < 256 →
    (tag = 0 ∨ tag = 1 → ∃ n t n' u, Steps n { s with program := digestCall (some m) tag } t ∧ t.program = [] ∧
      Steps n' { t with program := resultReads (lastRead t) } u ∧ u.program = [] ∧
      callAnswer (lastRead t) (u.hostReads.take 16).reverse = some (.ok (hexEncode (hashByTag tag m)).toList)) ∧
    (tag ≠ 0 → tag ≠ 1 → ∃ n t, Steps n { s with program := digestCall (some m) tag } t ∧ t.program = [] ∧
      resultReads (lastRead t) = [] ∧ callAnswer (lastRead t) [] = some (.error .unsupportedAlgorithm)) ∧
    ∃ n t, Steps n { s with program := digestCall none tag } t ∧ t.program = [] ∧
      resultReads (lastRead t) = [] ∧ callAnswer (lastRead t) [] = some (.error .invalidInput)
end

