-- ==== Sys2Proof/Laws/Arrays.lean ====
section
/-! SUPPORT. Small lemmas of `arrayOf`, `nth`, `byteAt` and `slice`, and the lanes and characters built with them. -/

namespace Sys2Proof.Machine

@[simp] theorem arrayOf_toList {α : Type} (n : Nat) (f : Nat → α) : (arrayOf n f).toList = (List.range n).map f := rfl

theorem nth_arrayOf {w : Nat} (n : Nat) (f : Nat → BitVec w) (i : Nat) :
    nth (arrayOf n f) i = if i < n then f i else 0 := by
  unfold nth
  rw [arrayOf_toList]
  by_cases h : i < n <;> simp [List.getD, h]

/-- Inside the array, element `i` is `f i`. -/
theorem nth_arrayOf_of_lt {w n : Nat} (f : Nat → BitVec w) {i : Nat} (h : i < n) : nth (arrayOf n f) i = f i := by
  rw [nth_arrayOf, if_pos h]

/-- An array is known by its elements. -/
theorem array_ext {w n : Nat} {u v : Vector (BitVec w) n} (h : ∀ i, i < n → nth u i = nth v i) : u = v := by
  apply Vector.ext
  intro i hi
  have := h i hi
  unfold nth at this
  simpa [List.getD, hi] using this

theorem nth_replicate {w : Nat} (n : Nat) (v : BitVec w) {i : Nat} (h : i < n) : nth (Vector.replicate n v) i = v := by
  unfold nth
  simp [List.getD, h]

theorem lane_lanesOf (f : Nat → Nat → Lane) {x y : Nat} (hx : x < 5) (hy : y < 5) : lane (lanesOf f) x y = f x y := by
  have h1 : x % 5 + 5 * (y % 5) < 25 := by omega
  unfold lane lanesOf
  rw [nth_arrayOf_of_lt _ h1]
  congr 1 <;> omega

/-- A Keccak state is known by its lanes. -/
theorem lanes_ext {A B : Lanes} (h : ∀ x y, x < 5 → y < 5 → lane A x y = lane B x y) : A = B := by
  apply array_ext
  intro i hi
  have := h (i % 5) (i / 5) (Nat.mod_lt _ (by decide)) (by omega)
  unfold lane at this
  have e : i % 5 % 5 + 5 * (i / 5 % 5) = i := by omega
  rwa [e] at this

@[simp] theorem slice_length (m : Bytes) (i j : Nat) : (slice m i j).length = min (j - i) (m.length - i) := by
  simp [slice]

/-- Byte `k` of `m[i .. j)` is byte `i + k` of `m`. -/
theorem byteAt_slice (m : Bytes) {i j k : Nat} (h : k < j - i) : byteAt (slice m i j) k = byteAt m (i + k) := by
  unfold byteAt slice
  simp [List.getD, h]

@[simp] theorem le32Bytes_length (w : Word) : (le32Bytes w).length = 4 := rfl
@[simp] theorem be32Bytes_length (w : Word) : (be32Bytes w).length = 4 := rfl
@[simp] theorem be64Bytes_length (v : Lane) : (be64Bytes v).length = 8 := rfl
@[simp] theorem le64Bytes_length (v : Lane) : (le64Bytes v).length = 8 := rfl

/-- Character `2j` of the encoding is the high nibble's digit (43_hex_encoder.md R202). -/
theorem hexEncode_high (D : Digest) {j : Nat} (h : j < 32) :
    nth (hexEncode D) (2 * j) = hexDigit ((nth D j).extractLsb' 4 4) := by
  unfold hexEncode
  rw [nth_arrayOf_of_lt _ (by omega)]
  simp

/-- Character `2j+1` of the encoding is the low nibble's digit (43_hex_encoder.md R202). -/
theorem hexEncode_low (D : Digest) {j : Nat} (h : j < 32) :
    nth (hexEncode D) (2 * j + 1) = hexDigit ((nth D j).extractLsb' 0 4) := by
  unfold hexEncode
  rw [nth_arrayOf_of_lt _ (by omega)]
  have e : (2 * j + 1) / 2 = j := by omega
  simp [e]

/-- Byte `j` of DIGEST after word `k` is put (20_memory.md R65). -/
theorem nth_putDigestWord (d : Digest) (k : Nat) (data : Word) {j : Nat} (h : j < 32) :
    nth (putDigestWord d k data) j = if j / 4 = k then byteOf data (j % 4) else nth d j := by
  unfold putDigestWord
  rw [nth_arrayOf_of_lt _ h]

end Sys2Proof.Machine
end

