-- ==== Sys2Proof/Laws/State.lean ====
section
/-! SUPPORT. One lemma per field of State per named update of it, so that no later proof unfolds a record update. -/

namespace Sys2Proof.Machine

/-! ### `raiseError` -/

@[simp] theorem raiseError_cmd (e : CmdError) (s : State) : (raiseError e s).cmd = s.cmd := rfl
@[simp] theorem raiseError_len (e : CmdError) (s : State) : (raiseError e s).len = s.len := rfl
@[simp] theorem raiseError_busy (e : CmdError) (s : State) : (raiseError e s).busy = s.busy := rfl
@[simp] theorem raiseError_done (e : CmdError) (s : State) : (raiseError e s).done = true := rfl
@[simp] theorem raiseError_wign (e : CmdError) (s : State) : (raiseError e s).wign = s.wign := rfl
@[simp] theorem raiseError_err (e : CmdError) (s : State) : (raiseError e s).err = e.code := rfl
@[simp] theorem raiseError_msgcap (e : CmdError) (s : State) : (raiseError e s).msgcap = s.msgcap := rfl
@[simp] theorem raiseError_digest (e : CmdError) (s : State) : (raiseError e s).digest = s.digest := rfl
@[simp] theorem raiseError_hex (e : CmdError) (s : State) : (raiseError e s).hex = s.hex := rfl
@[simp] theorem raiseError_msg (e : CmdError) (s : State) : (raiseError e s).msg = s.msg := rfl
@[simp] theorem raiseError_opL (e : CmdError) (s : State) : (raiseError e s).opL = s.opL := rfl
@[simp] theorem raiseError_algL (e : CmdError) (s : State) : (raiseError e s).algL = s.algL := rfl
@[simp] theorem raiseError_lenL (e : CmdError) (s : State) : (raiseError e s).lenL = s.lenL := rfl
@[simp] theorem raiseError_sha (e : CmdError) (s : State) : (raiseError e s).sha = s.sha := rfl
@[simp] theorem raiseError_keccak (e : CmdError) (s : State) : (raiseError e s).keccak = s.keccak := rfl
@[simp] theorem raiseError_program (e : CmdError) (s : State) : (raiseError e s).program = s.program := rfl
@[simp] theorem raiseError_hostReads (e : CmdError) (s : State) : (raiseError e s).hostReads = s.hostReads := rfl
@[simp] theorem raiseError_wait (e : CmdError) (s : State) : (raiseError e s).wait = s.wait := rfl
@[simp] theorem raiseError_latencies (e : CmdError) (s : State) : (raiseError e s).latencies = s.latencies := rfl
@[simp] theorem raiseError_epoch (e : CmdError) (s : State) : (raiseError e s).epoch = s.epoch := rfl
@[simp] theorem raiseError_draws (e : CmdError) (s : State) : (raiseError e s).draws = s.draws := rfl

/-! ### `latch` -/

@[simp] theorem latch_cmd (op : BitVec 4) (alg : BitVec 8) (s : State) : (latch op alg s).cmd = s.cmd := rfl
@[simp] theorem latch_len (op : BitVec 4) (alg : BitVec 8) (s : State) : (latch op alg s).len = s.len := rfl
@[simp] theorem latch_busy (op : BitVec 4) (alg : BitVec 8) (s : State) : (latch op alg s).busy = s.busy := rfl
@[simp] theorem latch_done (op : BitVec 4) (alg : BitVec 8) (s : State) : (latch op alg s).done = s.done := rfl
@[simp] theorem latch_wign (op : BitVec 4) (alg : BitVec 8) (s : State) : (latch op alg s).wign = s.wign := rfl
@[simp] theorem latch_err (op : BitVec 4) (alg : BitVec 8) (s : State) : (latch op alg s).err = s.err := rfl
@[simp] theorem latch_msgcap (op : BitVec 4) (alg : BitVec 8) (s : State) : (latch op alg s).msgcap = s.msgcap := rfl
@[simp] theorem latch_digest (op : BitVec 4) (alg : BitVec 8) (s : State) : (latch op alg s).digest = s.digest := rfl
@[simp] theorem latch_hex (op : BitVec 4) (alg : BitVec 8) (s : State) : (latch op alg s).hex = s.hex := rfl
@[simp] theorem latch_msg (op : BitVec 4) (alg : BitVec 8) (s : State) : (latch op alg s).msg = s.msg := rfl
@[simp] theorem latch_opL (op : BitVec 4) (alg : BitVec 8) (s : State) : (latch op alg s).opL = op := rfl
@[simp] theorem latch_algL (op : BitVec 4) (alg : BitVec 8) (s : State) : (latch op alg s).algL = alg := rfl
@[simp] theorem latch_lenL (op : BitVec 4) (alg : BitVec 8) (s : State) : (latch op alg s).lenL = s.len := rfl
@[simp] theorem latch_sha (op : BitVec 4) (alg : BitVec 8) (s : State) : (latch op alg s).sha = s.sha := rfl
@[simp] theorem latch_keccak (op : BitVec 4) (alg : BitVec 8) (s : State) : (latch op alg s).keccak = s.keccak := rfl
@[simp] theorem latch_program (op : BitVec 4) (alg : BitVec 8) (s : State) : (latch op alg s).program = s.program := rfl
@[simp] theorem latch_hostReads (op : BitVec 4) (alg : BitVec 8) (s : State) : (latch op alg s).hostReads = s.hostReads := rfl
@[simp] theorem latch_wait (op : BitVec 4) (alg : BitVec 8) (s : State) : (latch op alg s).wait = s.wait := rfl
@[simp] theorem latch_latencies (op : BitVec 4) (alg : BitVec 8) (s : State) : (latch op alg s).latencies = s.latencies := rfl
@[simp] theorem latch_epoch (op : BitVec 4) (alg : BitVec 8) (s : State) : (latch op alg s).epoch = s.epoch := rfl
@[simp] theorem latch_draws (op : BitVec 4) (alg : BitVec 8) (s : State) : (latch op alg s).draws = s.draws := rfl

/-! ### `startCommand` -/

@[simp] theorem startCommand_cmd (s : State) : (startCommand s).cmd = s.cmd := rfl
@[simp] theorem startCommand_len (s : State) : (startCommand s).len = s.len := rfl
@[simp] theorem startCommand_busy (s : State) : (startCommand s).busy = true := rfl
@[simp] theorem startCommand_done (s : State) : (startCommand s).done = false := rfl
@[simp] theorem startCommand_wign (s : State) : (startCommand s).wign = s.wign := rfl
@[simp] theorem startCommand_err (s : State) : (startCommand s).err = 0 := rfl
@[simp] theorem startCommand_msgcap (s : State) : (startCommand s).msgcap = s.msgcap := rfl
@[simp] theorem startCommand_digest (s : State) : (startCommand s).digest = s.digest := rfl
@[simp] theorem startCommand_hex (s : State) : (startCommand s).hex = s.hex := rfl
@[simp] theorem startCommand_msg (s : State) : (startCommand s).msg = s.msg := rfl
@[simp] theorem startCommand_opL (s : State) : (startCommand s).opL = s.opL := rfl
@[simp] theorem startCommand_algL (s : State) : (startCommand s).algL = s.algL := rfl
@[simp] theorem startCommand_lenL (s : State) : (startCommand s).lenL = s.lenL := rfl
@[simp] theorem startCommand_sha (s : State) : (startCommand s).sha = s.sha := rfl
@[simp] theorem startCommand_keccak (s : State) : (startCommand s).keccak = s.keccak := rfl
@[simp] theorem startCommand_program (s : State) : (startCommand s).program = s.program := rfl
@[simp] theorem startCommand_hostReads (s : State) : (startCommand s).hostReads = s.hostReads := rfl
@[simp] theorem startCommand_wait (s : State) : (startCommand s).wait = nextLatency s := rfl
@[simp] theorem startCommand_latencies (s : State) : (startCommand s).latencies = s.latencies.tail := rfl
@[simp] theorem startCommand_epoch (s : State) : (startCommand s).epoch = s.epoch := rfl
@[simp] theorem startCommand_draws (s : State) : (startCommand s).draws = s.draws + 1 := rfl

/-! ### `beginSha256` -/

@[simp] theorem beginSha256_cmd (m : Bytes) (s : State) : (beginSha256 m s).cmd = s.cmd := rfl
@[simp] theorem beginSha256_len (m : Bytes) (s : State) : (beginSha256 m s).len = s.len := rfl
@[simp] theorem beginSha256_busy (m : Bytes) (s : State) : (beginSha256 m s).busy = s.busy := rfl
@[simp] theorem beginSha256_done (m : Bytes) (s : State) : (beginSha256 m s).done = s.done := rfl
@[simp] theorem beginSha256_wign (m : Bytes) (s : State) : (beginSha256 m s).wign = s.wign := rfl
@[simp] theorem beginSha256_err (m : Bytes) (s : State) : (beginSha256 m s).err = s.err := rfl
@[simp] theorem beginSha256_msgcap (m : Bytes) (s : State) : (beginSha256 m s).msgcap = s.msgcap := rfl
@[simp] theorem beginSha256_digest (m : Bytes) (s : State) : (beginSha256 m s).digest = s.digest := rfl
@[simp] theorem beginSha256_hex (m : Bytes) (s : State) : (beginSha256 m s).hex = s.hex := rfl
@[simp] theorem beginSha256_msg (m : Bytes) (s : State) : (beginSha256 m s).msg = s.msg := rfl
@[simp] theorem beginSha256_opL (m : Bytes) (s : State) : (beginSha256 m s).opL = s.opL := rfl
@[simp] theorem beginSha256_algL (m : Bytes) (s : State) : (beginSha256 m s).algL = s.algL := rfl
@[simp] theorem beginSha256_lenL (m : Bytes) (s : State) : (beginSha256 m s).lenL = s.lenL := rfl
@[simp] theorem beginSha256_sha (m : Bytes) (s : State) : (beginSha256 m s).sha = s.sha.start (pad256 m) := rfl
@[simp] theorem beginSha256_keccak (m : Bytes) (s : State) : (beginSha256 m s).keccak = s.keccak := rfl
@[simp] theorem beginSha256_program (m : Bytes) (s : State) : (beginSha256 m s).program = s.program := rfl
@[simp] theorem beginSha256_hostReads (m : Bytes) (s : State) : (beginSha256 m s).hostReads = s.hostReads := rfl
@[simp] theorem beginSha256_wait (m : Bytes) (s : State) : (beginSha256 m s).wait = s.wait := rfl
@[simp] theorem beginSha256_latencies (m : Bytes) (s : State) : (beginSha256 m s).latencies = s.latencies := rfl
@[simp] theorem beginSha256_epoch (m : Bytes) (s : State) : (beginSha256 m s).epoch = s.epoch := rfl
@[simp] theorem beginSha256_draws (m : Bytes) (s : State) : (beginSha256 m s).draws = s.draws := rfl

/-! ### `beginSha3_256` -/

@[simp] theorem beginSha3_256_cmd (m : Bytes) (s : State) : (beginSha3_256 m s).cmd = s.cmd := rfl
@[simp] theorem beginSha3_256_len (m : Bytes) (s : State) : (beginSha3_256 m s).len = s.len := rfl
@[simp] theorem beginSha3_256_busy (m : Bytes) (s : State) : (beginSha3_256 m s).busy = s.busy := rfl
@[simp] theorem beginSha3_256_done (m : Bytes) (s : State) : (beginSha3_256 m s).done = s.done := rfl
@[simp] theorem beginSha3_256_wign (m : Bytes) (s : State) : (beginSha3_256 m s).wign = s.wign := rfl
@[simp] theorem beginSha3_256_err (m : Bytes) (s : State) : (beginSha3_256 m s).err = s.err := rfl
@[simp] theorem beginSha3_256_msgcap (m : Bytes) (s : State) : (beginSha3_256 m s).msgcap = s.msgcap := rfl
@[simp] theorem beginSha3_256_digest (m : Bytes) (s : State) : (beginSha3_256 m s).digest = s.digest := rfl
@[simp] theorem beginSha3_256_hex (m : Bytes) (s : State) : (beginSha3_256 m s).hex = s.hex := rfl
@[simp] theorem beginSha3_256_msg (m : Bytes) (s : State) : (beginSha3_256 m s).msg = s.msg := rfl
@[simp] theorem beginSha3_256_opL (m : Bytes) (s : State) : (beginSha3_256 m s).opL = s.opL := rfl
@[simp] theorem beginSha3_256_algL (m : Bytes) (s : State) : (beginSha3_256 m s).algL = s.algL := rfl
@[simp] theorem beginSha3_256_lenL (m : Bytes) (s : State) : (beginSha3_256 m s).lenL = s.lenL := rfl
@[simp] theorem beginSha3_256_sha (m : Bytes) (s : State) : (beginSha3_256 m s).sha = s.sha := rfl
@[simp] theorem beginSha3_256_keccak (m : Bytes) (s : State) : (beginSha3_256 m s).keccak = KeccakRegs.start (pad3 m) := rfl
@[simp] theorem beginSha3_256_program (m : Bytes) (s : State) : (beginSha3_256 m s).program = s.program := rfl
@[simp] theorem beginSha3_256_hostReads (m : Bytes) (s : State) : (beginSha3_256 m s).hostReads = s.hostReads := rfl
@[simp] theorem beginSha3_256_wait (m : Bytes) (s : State) : (beginSha3_256 m s).wait = s.wait := rfl
@[simp] theorem beginSha3_256_latencies (m : Bytes) (s : State) : (beginSha3_256 m s).latencies = s.latencies := rfl
@[simp] theorem beginSha3_256_epoch (m : Bytes) (s : State) : (beginSha3_256 m s).epoch = s.epoch := rfl
@[simp] theorem beginSha3_256_draws (m : Bytes) (s : State) : (beginSha3_256 m s).draws = s.draws := rfl

/-! ### `beginByTag` -/

@[simp] theorem beginByTag_cmd (tag : Nat) (m : Bytes) (s : State) : (beginByTag tag m s).cmd = s.cmd := by
  unfold beginByTag; split <;> rfl
@[simp] theorem beginByTag_len (tag : Nat) (m : Bytes) (s : State) : (beginByTag tag m s).len = s.len := by
  unfold beginByTag; split <;> rfl
@[simp] theorem beginByTag_busy (tag : Nat) (m : Bytes) (s : State) : (beginByTag tag m s).busy = s.busy := by
  unfold beginByTag; split <;> rfl
@[simp] theorem beginByTag_done (tag : Nat) (m : Bytes) (s : State) : (beginByTag tag m s).done = s.done := by
  unfold beginByTag; split <;> rfl
@[simp] theorem beginByTag_wign (tag : Nat) (m : Bytes) (s : State) : (beginByTag tag m s).wign = s.wign := by
  unfold beginByTag; split <;> rfl
@[simp] theorem beginByTag_err (tag : Nat) (m : Bytes) (s : State) : (beginByTag tag m s).err = s.err := by
  unfold beginByTag; split <;> rfl
@[simp] theorem beginByTag_msgcap (tag : Nat) (m : Bytes) (s : State) : (beginByTag tag m s).msgcap = s.msgcap := by
  unfold beginByTag; split <;> rfl
@[simp] theorem beginByTag_digest (tag : Nat) (m : Bytes) (s : State) : (beginByTag tag m s).digest = s.digest := by
  unfold beginByTag; split <;> rfl
@[simp] theorem beginByTag_hex (tag : Nat) (m : Bytes) (s : State) : (beginByTag tag m s).hex = s.hex := by
  unfold beginByTag; split <;> rfl
@[simp] theorem beginByTag_msg (tag : Nat) (m : Bytes) (s : State) : (beginByTag tag m s).msg = s.msg := by
  unfold beginByTag; split <;> rfl
@[simp] theorem beginByTag_opL (tag : Nat) (m : Bytes) (s : State) : (beginByTag tag m s).opL = s.opL := by
  unfold beginByTag; split <;> rfl
@[simp] theorem beginByTag_algL (tag : Nat) (m : Bytes) (s : State) : (beginByTag tag m s).algL = s.algL := by
  unfold beginByTag; split <;> rfl
@[simp] theorem beginByTag_lenL (tag : Nat) (m : Bytes) (s : State) : (beginByTag tag m s).lenL = s.lenL := by
  unfold beginByTag; split <;> rfl
@[simp] theorem beginByTag_sha (tag : Nat) (m : Bytes) (s : State) : (beginByTag tag m s).sha = if tag = tagSha256 then s.sha.start (pad256 m) else s.sha := by
  unfold beginByTag; split <;> rfl
@[simp] theorem beginByTag_keccak (tag : Nat) (m : Bytes) (s : State) : (beginByTag tag m s).keccak = if tag = tagSha256 then s.keccak else KeccakRegs.start (pad3 m) := by
  unfold beginByTag; split <;> rfl
@[simp] theorem beginByTag_program (tag : Nat) (m : Bytes) (s : State) : (beginByTag tag m s).program = s.program := by
  unfold beginByTag; split <;> rfl
@[simp] theorem beginByTag_hostReads (tag : Nat) (m : Bytes) (s : State) : (beginByTag tag m s).hostReads = s.hostReads := by
  unfold beginByTag; split <;> rfl
@[simp] theorem beginByTag_wait (tag : Nat) (m : Bytes) (s : State) : (beginByTag tag m s).wait = s.wait := by
  unfold beginByTag; split <;> rfl
@[simp] theorem beginByTag_latencies (tag : Nat) (m : Bytes) (s : State) : (beginByTag tag m s).latencies = s.latencies := by
  unfold beginByTag; split <;> rfl
@[simp] theorem beginByTag_epoch (tag : Nat) (m : Bytes) (s : State) : (beginByTag tag m s).epoch = s.epoch := by
  unfold beginByTag; split <;> rfl
@[simp] theorem beginByTag_draws (tag : Nat) (m : Bytes) (s : State) : (beginByTag tag m s).draws = s.draws := by
  unfold beginByTag; split <;> rfl

/-! ### `setWign` -/

@[simp] theorem setWign_cmd (s : State) : (setWign s).cmd = s.cmd := rfl
@[simp] theorem setWign_len (s : State) : (setWign s).len = s.len := rfl
@[simp] theorem setWign_busy (s : State) : (setWign s).busy = s.busy := rfl
@[simp] theorem setWign_done (s : State) : (setWign s).done = s.done := rfl
@[simp] theorem setWign_wign (s : State) : (setWign s).wign = true := rfl
@[simp] theorem setWign_err (s : State) : (setWign s).err = s.err := rfl
@[simp] theorem setWign_msgcap (s : State) : (setWign s).msgcap = s.msgcap := rfl
@[simp] theorem setWign_digest (s : State) : (setWign s).digest = s.digest := rfl
@[simp] theorem setWign_hex (s : State) : (setWign s).hex = s.hex := rfl
@[simp] theorem setWign_msg (s : State) : (setWign s).msg = s.msg := rfl
@[simp] theorem setWign_opL (s : State) : (setWign s).opL = s.opL := rfl
@[simp] theorem setWign_algL (s : State) : (setWign s).algL = s.algL := rfl
@[simp] theorem setWign_lenL (s : State) : (setWign s).lenL = s.lenL := rfl
@[simp] theorem setWign_sha (s : State) : (setWign s).sha = s.sha := rfl
@[simp] theorem setWign_keccak (s : State) : (setWign s).keccak = s.keccak := rfl
@[simp] theorem setWign_program (s : State) : (setWign s).program = s.program := rfl
@[simp] theorem setWign_hostReads (s : State) : (setWign s).hostReads = s.hostReads := rfl
@[simp] theorem setWign_wait (s : State) : (setWign s).wait = s.wait := rfl
@[simp] theorem setWign_latencies (s : State) : (setWign s).latencies = s.latencies := rfl
@[simp] theorem setWign_epoch (s : State) : (setWign s).epoch = s.epoch := rfl
@[simp] theorem setWign_draws (s : State) : (setWign s).draws = s.draws := rfl

/-! ### `setBusy` -/

@[simp] theorem setBusy_cmd (s : State) : (setBusy s).cmd = s.cmd := rfl
@[simp] theorem setBusy_len (s : State) : (setBusy s).len = s.len := rfl
@[simp] theorem setBusy_busy (s : State) : (setBusy s).busy = true := rfl
@[simp] theorem setBusy_done (s : State) : (setBusy s).done = false := rfl
@[simp] theorem setBusy_wign (s : State) : (setBusy s).wign = s.wign := rfl
@[simp] theorem setBusy_err (s : State) : (setBusy s).err = 0 := rfl
@[simp] theorem setBusy_msgcap (s : State) : (setBusy s).msgcap = s.msgcap := rfl
@[simp] theorem setBusy_digest (s : State) : (setBusy s).digest = s.digest := rfl
@[simp] theorem setBusy_hex (s : State) : (setBusy s).hex = s.hex := rfl
@[simp] theorem setBusy_msg (s : State) : (setBusy s).msg = s.msg := rfl
@[simp] theorem setBusy_opL (s : State) : (setBusy s).opL = s.opL := rfl
@[simp] theorem setBusy_algL (s : State) : (setBusy s).algL = s.algL := rfl
@[simp] theorem setBusy_lenL (s : State) : (setBusy s).lenL = s.lenL := rfl
@[simp] theorem setBusy_sha (s : State) : (setBusy s).sha = s.sha := rfl
@[simp] theorem setBusy_keccak (s : State) : (setBusy s).keccak = s.keccak := rfl
@[simp] theorem setBusy_program (s : State) : (setBusy s).program = s.program := rfl
@[simp] theorem setBusy_hostReads (s : State) : (setBusy s).hostReads = s.hostReads := rfl
@[simp] theorem setBusy_wait (s : State) : (setBusy s).wait = s.wait := rfl
@[simp] theorem setBusy_latencies (s : State) : (setBusy s).latencies = s.latencies := rfl
@[simp] theorem setBusy_epoch (s : State) : (setBusy s).epoch = s.epoch := rfl
@[simp] theorem setBusy_draws (s : State) : (setBusy s).draws = s.draws := rfl

/-! ### `setDone` -/

@[simp] theorem setDone_cmd (s : State) : (setDone s).cmd = s.cmd := rfl
@[simp] theorem setDone_len (s : State) : (setDone s).len = s.len := rfl
@[simp] theorem setDone_busy (s : State) : (setDone s).busy = false := rfl
@[simp] theorem setDone_done (s : State) : (setDone s).done = true := rfl
@[simp] theorem setDone_wign (s : State) : (setDone s).wign = s.wign := rfl
@[simp] theorem setDone_err (s : State) : (setDone s).err = s.err := rfl
@[simp] theorem setDone_msgcap (s : State) : (setDone s).msgcap = s.msgcap := rfl
@[simp] theorem setDone_digest (s : State) : (setDone s).digest = s.digest := rfl
@[simp] theorem setDone_hex (s : State) : (setDone s).hex = s.hex := rfl
@[simp] theorem setDone_msg (s : State) : (setDone s).msg = s.msg := rfl
@[simp] theorem setDone_opL (s : State) : (setDone s).opL = s.opL := rfl
@[simp] theorem setDone_algL (s : State) : (setDone s).algL = s.algL := rfl
@[simp] theorem setDone_lenL (s : State) : (setDone s).lenL = s.lenL := rfl
@[simp] theorem setDone_sha (s : State) : (setDone s).sha = s.sha := rfl
@[simp] theorem setDone_keccak (s : State) : (setDone s).keccak = s.keccak := rfl
@[simp] theorem setDone_program (s : State) : (setDone s).program = s.program := rfl
@[simp] theorem setDone_hostReads (s : State) : (setDone s).hostReads = s.hostReads := rfl
@[simp] theorem setDone_wait (s : State) : (setDone s).wait = s.wait := rfl
@[simp] theorem setDone_latencies (s : State) : (setDone s).latencies = s.latencies := rfl
@[simp] theorem setDone_epoch (s : State) : (setDone s).epoch = s.epoch := rfl
@[simp] theorem setDone_draws (s : State) : (setDone s).draws = s.draws := rfl

/-! ### `writeStatus` -/

@[simp] theorem writeStatus_cmd (data : Word) (s : State) : (writeStatus data s).cmd = s.cmd := by
  unfold writeStatus; split <;> rfl
@[simp] theorem writeStatus_len (data : Word) (s : State) : (writeStatus data s).len = s.len := by
  unfold writeStatus; split <;> rfl
@[simp] theorem writeStatus_busy (data : Word) (s : State) : (writeStatus data s).busy = s.busy := by
  unfold writeStatus; split <;> rfl
@[simp] theorem writeStatus_done (data : Word) (s : State) : (writeStatus data s).done = s.done := by
  unfold writeStatus; split <;> rfl
@[simp] theorem writeStatus_wign (data : Word) (s : State) : (writeStatus data s).wign = if data.getLsbD 2 then false else s.wign := by
  unfold writeStatus; split <;> rfl
@[simp] theorem writeStatus_err (data : Word) (s : State) : (writeStatus data s).err = s.err := by
  unfold writeStatus; split <;> rfl
@[simp] theorem writeStatus_msgcap (data : Word) (s : State) : (writeStatus data s).msgcap = s.msgcap := by
  unfold writeStatus; split <;> rfl
@[simp] theorem writeStatus_digest (data : Word) (s : State) : (writeStatus data s).digest = s.digest := by
  unfold writeStatus; split <;> rfl
@[simp] theorem writeStatus_hex (data : Word) (s : State) : (writeStatus data s).hex = s.hex := by
  unfold writeStatus; split <;> rfl
@[simp] theorem writeStatus_msg (data : Word) (s : State) : (writeStatus data s).msg = s.msg := by
  unfold writeStatus; split <;> rfl
@[simp] theorem writeStatus_opL (data : Word) (s : State) : (writeStatus data s).opL = s.opL := by
  unfold writeStatus; split <;> rfl
@[simp] theorem writeStatus_algL (data : Word) (s : State) : (writeStatus data s).algL = s.algL := by
  unfold writeStatus; split <;> rfl
@[simp] theorem writeStatus_lenL (data : Word) (s : State) : (writeStatus data s).lenL = s.lenL := by
  unfold writeStatus; split <;> rfl
@[simp] theorem writeStatus_sha (data : Word) (s : State) : (writeStatus data s).sha = s.sha := by
  unfold writeStatus; split <;> rfl
@[simp] theorem writeStatus_keccak (data : Word) (s : State) : (writeStatus data s).keccak = s.keccak := by
  unfold writeStatus; split <;> rfl
@[simp] theorem writeStatus_program (data : Word) (s : State) : (writeStatus data s).program = s.program := by
  unfold writeStatus; split <;> rfl
@[simp] theorem writeStatus_hostReads (data : Word) (s : State) : (writeStatus data s).hostReads = s.hostReads := by
  unfold writeStatus; split <;> rfl
@[simp] theorem writeStatus_wait (data : Word) (s : State) : (writeStatus data s).wait = s.wait := by
  unfold writeStatus; split <;> rfl
@[simp] theorem writeStatus_latencies (data : Word) (s : State) : (writeStatus data s).latencies = s.latencies := by
  unfold writeStatus; split <;> rfl
@[simp] theorem writeStatus_epoch (data : Word) (s : State) : (writeStatus data s).epoch = s.epoch := by
  unfold writeStatus; split <;> rfl
@[simp] theorem writeStatus_draws (data : Word) (s : State) : (writeStatus data s).draws = s.draws := by
  unfold writeStatus; split <;> rfl

/-! ### `discardInternal` -/

@[simp] theorem discardInternal_cmd (s : State) : (discardInternal s).cmd = s.cmd := rfl
@[simp] theorem discardInternal_len (s : State) : (discardInternal s).len = s.len := rfl
@[simp] theorem discardInternal_busy (s : State) : (discardInternal s).busy = s.busy := rfl
@[simp] theorem discardInternal_done (s : State) : (discardInternal s).done = s.done := rfl
@[simp] theorem discardInternal_wign (s : State) : (discardInternal s).wign = s.wign := rfl
@[simp] theorem discardInternal_err (s : State) : (discardInternal s).err = s.err := rfl
@[simp] theorem discardInternal_msgcap (s : State) : (discardInternal s).msgcap = s.msgcap := rfl
@[simp] theorem discardInternal_digest (s : State) : (discardInternal s).digest = s.digest := rfl
@[simp] theorem discardInternal_hex (s : State) : (discardInternal s).hex = s.hex := rfl
@[simp] theorem discardInternal_msg (s : State) : (discardInternal s).msg = s.msg := rfl
@[simp] theorem discardInternal_opL (s : State) : (discardInternal s).opL = (Config.residue s.draws 0).setWidth 4 := rfl
@[simp] theorem discardInternal_algL (s : State) : (discardInternal s).algL = (Config.residue s.draws 1).setWidth 8 := rfl
@[simp] theorem discardInternal_lenL (s : State) : (discardInternal s).lenL = (Config.residue s.draws 2).setWidth 32 := rfl
@[simp] theorem discardInternal_sha (s : State) : (discardInternal s).sha = residueSha256 s.draws := rfl
@[simp] theorem discardInternal_keccak (s : State) : (discardInternal s).keccak = residueKeccak s.draws := rfl
@[simp] theorem discardInternal_program (s : State) : (discardInternal s).program = s.program := rfl
@[simp] theorem discardInternal_hostReads (s : State) : (discardInternal s).hostReads = s.hostReads := rfl
@[simp] theorem discardInternal_wait (s : State) : (discardInternal s).wait = s.wait := rfl
@[simp] theorem discardInternal_latencies (s : State) : (discardInternal s).latencies = s.latencies := rfl
@[simp] theorem discardInternal_epoch (s : State) : (discardInternal s).epoch = s.epoch := rfl
@[simp] theorem discardInternal_draws (s : State) : (discardInternal s).draws = s.draws + 1 := rfl

/-! ### `finishCommand` -/

@[simp] theorem finishCommand_cmd (s : State) : (finishCommand s).cmd = s.cmd := rfl
@[simp] theorem finishCommand_len (s : State) : (finishCommand s).len = s.len := rfl
@[simp] theorem finishCommand_busy (s : State) : (finishCommand s).busy = false := rfl
@[simp] theorem finishCommand_done (s : State) : (finishCommand s).done = true := rfl
@[simp] theorem finishCommand_wign (s : State) : (finishCommand s).wign = s.wign := rfl
@[simp] theorem finishCommand_err (s : State) : (finishCommand s).err = s.err := rfl
@[simp] theorem finishCommand_msgcap (s : State) : (finishCommand s).msgcap = s.msgcap := rfl
@[simp] theorem finishCommand_digest (s : State) : (finishCommand s).digest = s.digest := rfl
@[simp] theorem finishCommand_hex (s : State) : (finishCommand s).hex = s.hex := rfl
@[simp] theorem finishCommand_msg (s : State) : (finishCommand s).msg = s.msg := rfl
@[simp] theorem finishCommand_opL (s : State) : (finishCommand s).opL = (Config.residue s.draws 0).setWidth 4 := rfl
@[simp] theorem finishCommand_algL (s : State) : (finishCommand s).algL = (Config.residue s.draws 1).setWidth 8 := rfl
@[simp] theorem finishCommand_lenL (s : State) : (finishCommand s).lenL = (Config.residue s.draws 2).setWidth 32 := rfl
@[simp] theorem finishCommand_sha (s : State) : (finishCommand s).sha = residueSha256 s.draws := rfl
@[simp] theorem finishCommand_keccak (s : State) : (finishCommand s).keccak = residueKeccak s.draws := rfl
@[simp] theorem finishCommand_program (s : State) : (finishCommand s).program = s.program := rfl
@[simp] theorem finishCommand_hostReads (s : State) : (finishCommand s).hostReads = s.hostReads := rfl
@[simp] theorem finishCommand_wait (s : State) : (finishCommand s).wait = 0 := rfl
@[simp] theorem finishCommand_latencies (s : State) : (finishCommand s).latencies = s.latencies := rfl
@[simp] theorem finishCommand_epoch (s : State) : (finishCommand s).epoch = s.epoch := rfl
@[simp] theorem finishCommand_draws (s : State) : (finishCommand s).draws = s.draws + 1 := rfl

/-! ### `putDigest` -/

@[simp] theorem putDigest_cmd (d : Digest) (s : State) : (putDigest d s).cmd = s.cmd := rfl
@[simp] theorem putDigest_len (d : Digest) (s : State) : (putDigest d s).len = s.len := rfl
@[simp] theorem putDigest_busy (d : Digest) (s : State) : (putDigest d s).busy = s.busy := rfl
@[simp] theorem putDigest_done (d : Digest) (s : State) : (putDigest d s).done = s.done := rfl
@[simp] theorem putDigest_wign (d : Digest) (s : State) : (putDigest d s).wign = s.wign := rfl
@[simp] theorem putDigest_err (d : Digest) (s : State) : (putDigest d s).err = s.err := rfl
@[simp] theorem putDigest_msgcap (d : Digest) (s : State) : (putDigest d s).msgcap = s.msgcap := rfl
@[simp] theorem putDigest_digest (d : Digest) (s : State) : (putDigest d s).digest = d := rfl
@[simp] theorem putDigest_hex (d : Digest) (s : State) : (putDigest d s).hex = s.hex := rfl
@[simp] theorem putDigest_msg (d : Digest) (s : State) : (putDigest d s).msg = s.msg := rfl
@[simp] theorem putDigest_opL (d : Digest) (s : State) : (putDigest d s).opL = s.opL := rfl
@[simp] theorem putDigest_algL (d : Digest) (s : State) : (putDigest d s).algL = s.algL := rfl
@[simp] theorem putDigest_lenL (d : Digest) (s : State) : (putDigest d s).lenL = s.lenL := rfl
@[simp] theorem putDigest_sha (d : Digest) (s : State) : (putDigest d s).sha = s.sha := rfl
@[simp] theorem putDigest_keccak (d : Digest) (s : State) : (putDigest d s).keccak = s.keccak := rfl
@[simp] theorem putDigest_program (d : Digest) (s : State) : (putDigest d s).program = s.program := rfl
@[simp] theorem putDigest_hostReads (d : Digest) (s : State) : (putDigest d s).hostReads = s.hostReads := rfl
@[simp] theorem putDigest_wait (d : Digest) (s : State) : (putDigest d s).wait = s.wait := rfl
@[simp] theorem putDigest_latencies (d : Digest) (s : State) : (putDigest d s).latencies = s.latencies := rfl
@[simp] theorem putDigest_epoch (d : Digest) (s : State) : (putDigest d s).epoch = s.epoch := rfl
@[simp] theorem putDigest_draws (d : Digest) (s : State) : (putDigest d s).draws = s.draws := rfl

/-! ### `putHex` -/

@[simp] theorem putHex_cmd (d : Digest) (s : State) : (putHex d s).cmd = s.cmd := rfl
@[simp] theorem putHex_len (d : Digest) (s : State) : (putHex d s).len = s.len := rfl
@[simp] theorem putHex_busy (d : Digest) (s : State) : (putHex d s).busy = s.busy := rfl
@[simp] theorem putHex_done (d : Digest) (s : State) : (putHex d s).done = s.done := rfl
@[simp] theorem putHex_wign (d : Digest) (s : State) : (putHex d s).wign = s.wign := rfl
@[simp] theorem putHex_err (d : Digest) (s : State) : (putHex d s).err = s.err := rfl
@[simp] theorem putHex_msgcap (d : Digest) (s : State) : (putHex d s).msgcap = s.msgcap := rfl
@[simp] theorem putHex_digest (d : Digest) (s : State) : (putHex d s).digest = s.digest := rfl
@[simp] theorem putHex_hex (d : Digest) (s : State) : (putHex d s).hex = hexEncode d := rfl
@[simp] theorem putHex_msg (d : Digest) (s : State) : (putHex d s).msg = s.msg := rfl
@[simp] theorem putHex_opL (d : Digest) (s : State) : (putHex d s).opL = s.opL := rfl
@[simp] theorem putHex_algL (d : Digest) (s : State) : (putHex d s).algL = s.algL := rfl
@[simp] theorem putHex_lenL (d : Digest) (s : State) : (putHex d s).lenL = s.lenL := rfl
@[simp] theorem putHex_sha (d : Digest) (s : State) : (putHex d s).sha = s.sha := rfl
@[simp] theorem putHex_keccak (d : Digest) (s : State) : (putHex d s).keccak = s.keccak := rfl
@[simp] theorem putHex_program (d : Digest) (s : State) : (putHex d s).program = s.program := rfl
@[simp] theorem putHex_hostReads (d : Digest) (s : State) : (putHex d s).hostReads = s.hostReads := rfl
@[simp] theorem putHex_wait (d : Digest) (s : State) : (putHex d s).wait = s.wait := rfl
@[simp] theorem putHex_latencies (d : Digest) (s : State) : (putHex d s).latencies = s.latencies := rfl
@[simp] theorem putHex_epoch (d : Digest) (s : State) : (putHex d s).epoch = s.epoch := rfl
@[simp] theorem putHex_draws (d : Digest) (s : State) : (putHex d s).draws = s.draws := rfl

/-! ### `resetBlock` -/

@[simp] theorem resetBlock_cmd (s : State) : (resetBlock s).cmd = 0 := rfl
@[simp] theorem resetBlock_len (s : State) : (resetBlock s).len = 0 := rfl
@[simp] theorem resetBlock_busy (s : State) : (resetBlock s).busy = false := rfl
@[simp] theorem resetBlock_done (s : State) : (resetBlock s).done = false := rfl
@[simp] theorem resetBlock_wign (s : State) : (resetBlock s).wign = false := rfl
@[simp] theorem resetBlock_err (s : State) : (resetBlock s).err = 0 := rfl
@[simp] theorem resetBlock_msgcap (s : State) : (resetBlock s).msgcap = s.msgcap := rfl
@[simp] theorem resetBlock_digest (s : State) : (resetBlock s).digest = Vector.replicate 32 0 := rfl
@[simp] theorem resetBlock_hex (s : State) : (resetBlock s).hex = Vector.replicate 64 0 := rfl
@[simp] theorem resetBlock_msg (s : State) : (resetBlock s).msg = [] := rfl
@[simp] theorem resetBlock_opL (s : State) : (resetBlock s).opL = 0 := rfl
@[simp] theorem resetBlock_algL (s : State) : (resetBlock s).algL = 0 := rfl
@[simp] theorem resetBlock_lenL (s : State) : (resetBlock s).lenL = 0 := rfl
@[simp] theorem resetBlock_sha (s : State) : (resetBlock s).sha = Sha256Regs.zero := rfl
@[simp] theorem resetBlock_keccak (s : State) : (resetBlock s).keccak = KeccakRegs.zero := rfl
@[simp] theorem resetBlock_program (s : State) : (resetBlock s).program = s.program := rfl
@[simp] theorem resetBlock_hostReads (s : State) : (resetBlock s).hostReads = s.hostReads := rfl
@[simp] theorem resetBlock_wait (s : State) : (resetBlock s).wait = 0 := rfl
@[simp] theorem resetBlock_latencies (s : State) : (resetBlock s).latencies = s.latencies := rfl
@[simp] theorem resetBlock_epoch (s : State) : (resetBlock s).epoch = s.epoch + 1 := rfl
@[simp] theorem resetBlock_draws (s : State) : (resetBlock s).draws = s.draws := rfl

/-! ### `returnRead` -/

@[simp] theorem returnRead_cmd (v : Word) (s : State) : (returnRead v s).cmd = s.cmd := rfl
@[simp] theorem returnRead_len (v : Word) (s : State) : (returnRead v s).len = s.len := rfl
@[simp] theorem returnRead_busy (v : Word) (s : State) : (returnRead v s).busy = s.busy := rfl
@[simp] theorem returnRead_done (v : Word) (s : State) : (returnRead v s).done = s.done := rfl
@[simp] theorem returnRead_wign (v : Word) (s : State) : (returnRead v s).wign = s.wign := rfl
@[simp] theorem returnRead_err (v : Word) (s : State) : (returnRead v s).err = s.err := rfl
@[simp] theorem returnRead_msgcap (v : Word) (s : State) : (returnRead v s).msgcap = s.msgcap := rfl
@[simp] theorem returnRead_digest (v : Word) (s : State) : (returnRead v s).digest = s.digest := rfl
@[simp] theorem returnRead_hex (v : Word) (s : State) : (returnRead v s).hex = s.hex := rfl
@[simp] theorem returnRead_msg (v : Word) (s : State) : (returnRead v s).msg = s.msg := rfl
@[simp] theorem returnRead_opL (v : Word) (s : State) : (returnRead v s).opL = s.opL := rfl
@[simp] theorem returnRead_algL (v : Word) (s : State) : (returnRead v s).algL = s.algL := rfl
@[simp] theorem returnRead_lenL (v : Word) (s : State) : (returnRead v s).lenL = s.lenL := rfl
@[simp] theorem returnRead_sha (v : Word) (s : State) : (returnRead v s).sha = s.sha := rfl
@[simp] theorem returnRead_keccak (v : Word) (s : State) : (returnRead v s).keccak = s.keccak := rfl
@[simp] theorem returnRead_program (v : Word) (s : State) : (returnRead v s).program = s.program := rfl
@[simp] theorem returnRead_hostReads (v : Word) (s : State) : (returnRead v s).hostReads = v :: s.hostReads := rfl
@[simp] theorem returnRead_wait (v : Word) (s : State) : (returnRead v s).wait = s.wait := rfl
@[simp] theorem returnRead_latencies (v : Word) (s : State) : (returnRead v s).latencies = s.latencies := rfl
@[simp] theorem returnRead_epoch (v : Word) (s : State) : (returnRead v s).epoch = s.epoch := rfl
@[simp] theorem returnRead_draws (v : Word) (s : State) : (returnRead v s).draws = s.draws := rfl

/-! ### `takeEvent` -/

@[simp] theorem takeEvent_cmd (rest : List HostEvent) (s : State) : (takeEvent rest s).cmd = s.cmd := rfl
@[simp] theorem takeEvent_len (rest : List HostEvent) (s : State) : (takeEvent rest s).len = s.len := rfl
@[simp] theorem takeEvent_busy (rest : List HostEvent) (s : State) : (takeEvent rest s).busy = s.busy := rfl
@[simp] theorem takeEvent_done (rest : List HostEvent) (s : State) : (takeEvent rest s).done = s.done := rfl
@[simp] theorem takeEvent_wign (rest : List HostEvent) (s : State) : (takeEvent rest s).wign = s.wign := rfl
@[simp] theorem takeEvent_err (rest : List HostEvent) (s : State) : (takeEvent rest s).err = s.err := rfl
@[simp] theorem takeEvent_msgcap (rest : List HostEvent) (s : State) : (takeEvent rest s).msgcap = s.msgcap := rfl
@[simp] theorem takeEvent_digest (rest : List HostEvent) (s : State) : (takeEvent rest s).digest = s.digest := rfl
@[simp] theorem takeEvent_hex (rest : List HostEvent) (s : State) : (takeEvent rest s).hex = s.hex := rfl
@[simp] theorem takeEvent_msg (rest : List HostEvent) (s : State) : (takeEvent rest s).msg = s.msg := rfl
@[simp] theorem takeEvent_opL (rest : List HostEvent) (s : State) : (takeEvent rest s).opL = s.opL := rfl
@[simp] theorem takeEvent_algL (rest : List HostEvent) (s : State) : (takeEvent rest s).algL = s.algL := rfl
@[simp] theorem takeEvent_lenL (rest : List HostEvent) (s : State) : (takeEvent rest s).lenL = s.lenL := rfl
@[simp] theorem takeEvent_sha (rest : List HostEvent) (s : State) : (takeEvent rest s).sha = s.sha := rfl
@[simp] theorem takeEvent_keccak (rest : List HostEvent) (s : State) : (takeEvent rest s).keccak = s.keccak := rfl
@[simp] theorem takeEvent_program (rest : List HostEvent) (s : State) : (takeEvent rest s).program = rest := rfl
@[simp] theorem takeEvent_hostReads (rest : List HostEvent) (s : State) : (takeEvent rest s).hostReads = s.hostReads := rfl
@[simp] theorem takeEvent_wait (rest : List HostEvent) (s : State) : (takeEvent rest s).wait = s.wait - 1 := rfl
@[simp] theorem takeEvent_latencies (rest : List HostEvent) (s : State) : (takeEvent rest s).latencies = s.latencies := rfl
@[simp] theorem takeEvent_epoch (rest : List HostEvent) (s : State) : (takeEvent rest s).epoch = s.epoch := rfl
@[simp] theorem takeEvent_draws (rest : List HostEvent) (s : State) : (takeEvent rest s).draws = s.draws := rfl

end Sys2Proof.Machine
end

