-- ==== Sys2Proof/Laws/Exec.lean ====
section
/-! SUPPORT. What each shared operation of the commands can do, said once, and `exec` in closed form: the acceptance of a
command in IDLE and its completion in BUSY. -/

namespace Sys2Proof.Machine

/-! ### The Normalizer -/

/-- Everything `normalize` can answer (40_normalizer.md R102). -/
theorem normalize_cases (srcv : Bool) (s : State) :
    (srcv = false ∧ normalize srcv s = .error .invalidInput) ∨
    (srcv = true ∧ s.msgcap.toNat < s.lenL.toNat ∧ normalize srcv s = .error .lengthOutOfRange) ∨
    (srcv = true ∧ s.lenL.toNat ≤ s.msgcap.toNat ∧ normalize srcv s = .ok (message s)) := by
  cases srcv with
  | false => exact .inl ⟨rfl, rfl⟩
  | true =>
    by_cases h : s.msgcap.toNat < s.lenL.toNat
    · exact .inr (.inl ⟨rfl, h, by simp [normalize, h]⟩)
    · exact .inr (.inr ⟨rfl, by omega, by simp [normalize, h]⟩)

/-! ### The message -/

/-- The message is known by its length and its bytes. -/
theorem message_congr {s t : State} (hl : s.lenL = t.lenL) (hb : ∀ i, i < s.lenL.toNat → msgByte s i = msgByte t i) :
    message s = message t := by
  unfold message memRead
  rw [← hl]
  apply List.map_congr_left
  intro i hi
  simpa using hb i (List.mem_range.1 hi)

@[simp] theorem message_length (s : State) : (message s).length = s.lenL.toNat := by simp [message, memRead]

theorem msgByte_congr {s t : State} (hm : s.msg = t.msg) (he : s.epoch = t.epoch) (i : Nat) : msgByte s i = msgByte t i := by
  unfold msgByte
  rw [hm, he]

/-! ### One command in its phase -/

theorem runCommand_idle (i : Instr) (f g : State → State) {s : State} (h : s.busy = false) :
    runCommand i f g s = .next (f s) := by
  simp [runCommand, h]

theorem runCommand_inFlight (i : Instr) (f g : State → State) {s : State} (h : s.busy = true)
    (hi : latchedInstr s = some i) : runCommand i f g s = .next (g s) := by
  simp [runCommand, h, hi]

theorem runCommand_other (i : Instr) (f g : State → State) {s : State} (h : s.busy = true)
    (hi : latchedInstr s ≠ some i) : runCommand i f g s = .next (setWign s) := by
  simp [runCommand, h, hi]

/-! ### `exec` in closed form -/

/-- The OP a command latches. -/
def opOf : Instr → BitVec 4
  | .digest _ _ => 1
  | .sha256 _ => 2
  | .sha3_256 _ => 3
  | .hexenc => 4

/-- The ALG a command latches. -/
def algOf : Instr → BitVec 8
  | .digest _ tag => BitVec.ofNat 8 tag
  | .sha256 _ => 0
  | .sha3_256 _ => 0
  | .hexenc => 0

/-- The error that the checks 2 to 4 of 44_dispatch.md R223 give a command, if any. -/
def commandError (i : Instr) (s : State) : Option CmdError :=
  match i with
  | .digest srcv tag =>
    if srcv = false then some .invalidInput
    else if s.msgcap.toNat < s.len.toNat then some .lengthOutOfRange
    else if validTag tag then none else some .unsupportedAlgorithm
  | .sha256 srcv | .sha3_256 srcv =>
    if srcv = false then some .invalidInput
    else if s.msgcap.toNat < s.len.toNat then some .lengthOutOfRange else none
  | .hexenc => none

/-- The engine state that an accepted command creates. -/
def beginEngine (i : Instr) (s : State) : State :=
  match i with
  | .digest _ tag => beginByTag tag (message s) s
  | .sha256 _ => beginSha256 (message s) s
  | .sha3_256 _ => beginSha3_256 (message s) s
  | .hexenc => s

/-- The acceptance of a command: rejected with its error, or started. -/
def acceptance (i : Instr) (s : State) : State :=
  match commandError i s with
  | some e => raiseError e (latch (opOf i) (algOf i) s)
  | none => startCommand (beginEngine i (latch (opOf i) (algOf i) s))

/-- The completion of a command. -/
def completion (i : Instr) (s : State) : State :=
  match i with
  | .digest _ tag => completeDigest tag s
  | .sha256 _ => completeSha256 s
  | .sha3_256 _ => completeSha3_256 s
  | .hexenc => completeHexenc s

/-- The Normalizer on the latched command: its checks are those of `commandError` (40_normalizer.md R102). -/
theorem normalize_latch (srcv : Bool) (op : BitVec 4) (alg : BitVec 8) (s : State) :
    normalize srcv (latch op alg s) =
      if srcv = false then .error .invalidInput
      else if s.msgcap.toNat < s.len.toNat then .error .lengthOutOfRange
      else .ok (message (latch op alg s)) := rfl

/-- `exec` in IDLE is the command's acceptance. -/
theorem exec_idle (i : Instr) {s : State} (h : s.busy = false) : exec i s = .next (acceptance i s) := by
  cases i with
  | digest srcv tag =>
    refine (runCommand_idle _ _ _ h).trans ?_
    simp only [acceptDigest, normalize_latch, acceptance, commandError, opOf, algOf, beginEngine]
    cases srcv <;> by_cases hl : s.msgcap.toNat < s.len.toNat <;> by_cases hv : validTag tag = true <;> simp [hl, hv]
  | sha256 srcv =>
    refine (runCommand_idle _ _ _ h).trans ?_
    simp only [acceptSha256, normalize_latch, acceptance, commandError, opOf, algOf, beginEngine]
    cases srcv <;> by_cases hl : s.msgcap.toNat < s.len.toNat <;> simp [hl]
  | sha3_256 srcv =>
    refine (runCommand_idle _ _ _ h).trans ?_
    simp only [acceptSha3_256, normalize_latch, acceptance, commandError, opOf, algOf, beginEngine]
    cases srcv <;> by_cases hl : s.msgcap.toNat < s.len.toNat <;> simp [hl]
  | hexenc => exact runCommand_idle _ _ _ h

/-- `exec` of the command in flight is its completion. -/
theorem exec_inFlight (i : Instr) {s : State} (h : s.busy = true) (hi : latchedInstr s = some i) :
    exec i s = .next (completion i s) := by
  cases i <;> exact runCommand_inFlight _ _ _ h hi

/-- `exec` of another command than the one in flight is turned away. -/
theorem exec_other (i : Instr) {s : State} (h : s.busy = true) (hi : latchedInstr s ≠ some i) :
    exec i s = .next (setWign s) := by
  cases i <;> exact runCommand_other _ _ _ h hi

/-! ### What the latch can hold -/

/-- The commands that can be in flight have their input present and a valid tag (44_dispatch.md R222). -/
theorem latchedInstr_cases {s : State} {i : Instr} (h : latchedInstr s = some i) :
    (s.opL = 1 ∧ validTag s.algL.toNat = true ∧ i = .digest true s.algL.toNat) ∨
    (s.opL = 2 ∧ i = .sha256 true) ∨ (s.opL = 3 ∧ i = .sha3_256 true) ∨ (s.opL = 4 ∧ i = .hexenc) := by
  unfold latchedInstr at h
  split at h
  · split at h
    · exact .inl ⟨‹_›, ‹_›, by simpa using h.symm⟩
    · cases h
  · split at h
    · exact .inr (.inl ⟨‹_›, by simpa using h.symm⟩)
    · split at h
      · exact .inr (.inr (.inl ⟨‹_›, by simpa using h.symm⟩))
      · split at h
        · exact .inr (.inr (.inr ⟨‹_›, by simpa using h.symm⟩))
        · cases h

/-- The fields that the creation of an engine's state leaves alone: all but the two working states. -/
theorem beginEngine_frame (i : Instr) (s : State) :
    ∃ sha keccak, beginEngine i s = { s with sha := sha, keccak := keccak } := by
  cases i with
  | digest srcv tag =>
    by_cases h : tag = tagSha256
    · exact ⟨s.sha.start (pad256 (message s)), s.keccak, by simp [beginEngine, beginByTag, h, beginSha256]⟩
    · exact ⟨s.sha, KeccakRegs.start (pad3 (message s)), by simp [beginEngine, beginByTag, h, beginSha3_256]⟩
  | sha256 srcv => exact ⟨s.sha.start (pad256 (message s)), s.keccak, rfl⟩
  | sha3_256 srcv => exact ⟨s.sha, KeccakRegs.start (pad3 (message s)), rfl⟩
  | hexenc => exact ⟨s.sha, s.keccak, rfl⟩

/-- The fields that a completion leaves alone, and the flags it sets (44_dispatch.md R224). -/
theorem completion_frame (i : Instr) (s : State) :
    ∃ digest hex, completion i s = finishCommand { s with digest := digest, hex := hex } := by
  cases i with
  | digest srcv tag => exact ⟨hashByTag tag (message s), hexEncode (hashByTag tag (message s)), rfl⟩
  | sha256 srcv => exact ⟨sha256 (message s), s.hex, rfl⟩
  | sha3_256 srcv => exact ⟨sha3_256 (message s), s.hex, rfl⟩
  | hexenc => exact ⟨s.digest, hexEncode s.digest, rfl⟩

/-! ### The fields after an acceptance and after a completion -/

/-- Everything an acceptance leaves alone, and the latch it writes (44_dispatch.md R222). -/
theorem acceptance_fields (i : Instr) (s : State) :
    (acceptance i s).cmd = s.cmd ∧ (acceptance i s).len = s.len ∧ (acceptance i s).wign = s.wign ∧
    (acceptance i s).msgcap = s.msgcap ∧ (acceptance i s).digest = s.digest ∧ (acceptance i s).hex = s.hex ∧
    (acceptance i s).msg = s.msg ∧ (acceptance i s).epoch = s.epoch ∧ (acceptance i s).opL = opOf i ∧
    (acceptance i s).algL = algOf i ∧ (acceptance i s).lenL = s.len ∧ (acceptance i s).program = s.program ∧
    (acceptance i s).hostReads = s.hostReads := by
  unfold acceptance
  cases commandError i s with
  | some e => simp
  | none =>
    obtain ⟨sha, keccak, h⟩ := beginEngine_frame i (latch (opOf i) (algOf i) s)
    simp [h]

/-- The flags of an acceptance in IDLE (44_dispatch.md R222). -/
theorem acceptance_flags (i : Instr) {s : State} (hb : s.busy = false) :
    (acceptance i s).err = ((commandError i s).map CmdError.code).getD 0 ∧
    (acceptance i s).busy = (commandError i s).isNone ∧ (acceptance i s).done = (commandError i s).isSome := by
  unfold acceptance
  cases commandError i s with
  | some e => simp [hb]
  | none => simp

/-- Everything a completion leaves alone, and the flags it sets (44_dispatch.md R224). -/
theorem completion_fields (i : Instr) (s : State) :
    (completion i s).cmd = s.cmd ∧ (completion i s).len = s.len ∧ (completion i s).wign = s.wign ∧
    (completion i s).msgcap = s.msgcap ∧ (completion i s).msg = s.msg ∧ (completion i s).epoch = s.epoch ∧
    (completion i s).busy = false ∧ (completion i s).done = true ∧ (completion i s).err = s.err ∧
    (completion i s).program = s.program ∧ (completion i s).hostReads = s.hostReads := by
  obtain ⟨digest, hex, h⟩ := completion_frame i s
  simp [h]

/-- The checks do not read CMD. -/
@[simp] theorem commandError_cmd (i : Instr) (s : State) (c : Word) :
    commandError i { s with cmd := c } = commandError i s := by
  cases i <;> rfl

/-- What the latch holds depends on OP_L and ALG_L only. -/
theorem latchedInstr_congr {s t : State} (h1 : s.opL = t.opL) (h2 : s.algL = t.algL) : latchedInstr s = latchedInstr t := by
  unfold latchedInstr
  rw [h1, h2]

end Sys2Proof.Machine
end

