-- ==== Sys2Proof/Laws/Decode.lean ====
section
/-! SUPPORT. What a row of the opcode map says bit by bit, and what a word that decodes says of its fields. -/

namespace Sys2Proof

/-- A word that matches a row has the row's bit wherever the mask has a 1 (30_encoding.md R84). -/
theorem OpRow.bit_of_holds {r : OpRow} {c : Word} (h : r.holds c = true) (i : Nat) (hm : r.mask.getLsbD i = true) :
    c.getLsbD i = r.pattern.getLsbD i := by
  have e : c &&& r.mask = r.pattern := by simpa [OpRow.holds] using h
  rw [← e, BitVec.getLsbD_and, hm, Bool.and_true]

/-- A field of a word is the constant whose bits the row fixes there. -/
theorem OpRow.field_of_holds {r : OpRow} {c : Word} (h : r.holds c = true) (lo w : Nat) (v : BitVec w)
    (hm : ∀ i, i < w → r.mask.getLsbD (lo + i) = true ∧ r.pattern.getLsbD (lo + i) = v.getLsbD i) :
    c.extractLsb' lo w = v := by
  apply BitVec.eq_of_getLsbD_eq
  intro i hi
  rw [BitVec.getLsbD_extractLsb', OpRow.bit_of_holds h _ (hm i hi).1, (hm i hi).2]
  simp [hi]

/-- Everything `decode` can answer, by the row that holds (30_encoding.md R85). -/
theorem decode_cases (c : Word) :
    (rowDigest.holds c = true ∧ decode c = .ok (.digest (fieldSrcv c) (fieldAlg c).toNat)) ∨
    (rowSha256.holds c = true ∧ decode c = .ok (.sha256 (fieldSrcv c))) ∨
    (rowSha3_256.holds c = true ∧ decode c = .ok (.sha3_256 (fieldSrcv c))) ∨
    (rowHexenc.holds c = true ∧ decode c = .ok .hexenc) ∨
    (rowDigest.holds c = false ∧ rowSha256.holds c = false ∧ rowSha3_256.holds c = false ∧ rowHexenc.holds c = false ∧
      decode c = .error .illegalCommand) := by
  unfold decode
  cases h1 : rowDigest.holds c
  · cases h2 : rowSha256.holds c
    · cases h3 : rowSha3_256.holds c
      · cases h4 : rowHexenc.holds c <;> simp
      · simp
    · simp
  · simp

/-- A word that decodes carries the OP and the ALG of its command (30_encoding.md R84). -/
theorem decode_fields {c : Word} {i : Instr} (h : decode c = .ok i) :
    fieldOp c = Machine.opOf i ∧ fieldAlg c = Machine.algOf i := by
  rcases decode_cases c with ⟨hr, hd⟩ | ⟨hr, hd⟩ | ⟨hr, hd⟩ | ⟨hr, hd⟩ | ⟨_, _, _, _, hd⟩ <;> rw [hd] at h <;> cases h
  · exact ⟨OpRow.field_of_holds hr 0 4 1 (by decide), by simp [Machine.algOf]⟩
  · exact ⟨OpRow.field_of_holds hr 0 4 2 (by decide), OpRow.field_of_holds hr 16 8 0 (by decide)⟩
  · exact ⟨OpRow.field_of_holds hr 0 4 3 (by decide), OpRow.field_of_holds hr 16 8 0 (by decide)⟩
  · exact ⟨OpRow.field_of_holds hr 0 4 4 (by decide), OpRow.field_of_holds hr 16 8 0 (by decide)⟩

end Sys2Proof
end

