-- ==== Sys2Proof/Laws/Engine.lean ====
section
/-! SUPPORT. The engine cycles said once: cycles are rounds, rounds add up, and an engine that has fed all its blocks stays. -/

namespace Sys2Proof.Machine

/-! ### Rounds add up -/

theorem Sha256Regs.moves_add (p : Bytes) (r : Sha256Regs) (a b : Nat) :
    r.moves p (a + b) = (r.moves p a).moves p b := by
  induction b with
  | zero => rfl
  | succ b ih => exact congrArg (Sha256Regs.move p) ih

theorem KeccakRegs.moves_add (p : Bytes) (r : KeccakRegs) (a b : Nat) :
    r.moves p (a + b) = (r.moves p a).moves p b := by
  induction b with
  | zero => rfl
  | succ b ih => exact congrArg (KeccakRegs.move p) ih

/-! ### An engine that is done stays as it is -/

theorem Sha256Regs.moves_done {p : Bytes} {r : Sha256Regs} (h : p.length / 64 ≤ r.blockIndex) (n : Nat) :
    r.moves p n = r := by
  induction n with
  | zero => rfl
  | succ n ih => simp [Sha256Regs.moves, ih, Sha256Regs.move, Nat.not_lt.2 h]

theorem KeccakRegs.moves_done {p : Bytes} {r : KeccakRegs} (h : p.length / 136 ≤ r.blockIndex) (n : Nat) :
    r.moves p n = r := by
  induction n with
  | zero => rfl
  | succ n ih => simp [KeccakRegs.moves, ih, KeccakRegs.move, Nat.not_lt.2 h]

/-! ### `n` cycles of UNROLL rounds are `unroll * n` rounds -/

/-- The cycles of the SHA-256 engine change its working state only (00_scope.md R5, 41_sha256.md R136). -/
theorem engineCycles_sha256 (unroll : Nat) {s : State} (h : usesSha256 s = true) (n : Nat) :
    engineCycles unroll s n = { s with sha := s.sha.moves (pad256 (message s)) (unroll * n) } := by
  induction n with
  | zero => rfl
  | succ n ih =>
    have hu : usesSha256 { s with sha := s.sha.moves (pad256 (message s)) (unroll * n) } = true := h
    rw [engineCycles, ih, engineCycle, if_pos hu, Nat.mul_succ, Sha256Regs.moves_add]
    rfl

/-- The cycles of the SHA3-256 engine change its working state only (00_scope.md R5, 42_sha3_256.md R174). -/
theorem engineCycles_sha3_256 (unroll : Nat) {s : State} (h : usesSha256 s = false) (h3 : usesSha3_256 s = true) (n : Nat) :
    engineCycles unroll s n = { s with keccak := s.keccak.moves (pad3 (message s)) (unroll * n) } := by
  induction n with
  | zero => rfl
  | succ n ih =>
    have hu : usesSha256 { s with keccak := s.keccak.moves (pad3 (message s)) (unroll * n) } = false := h
    have hu3 : usesSha3_256 { s with keccak := s.keccak.moves (pad3 (message s)) (unroll * n) } = true := h3
    rw [engineCycles, ih, engineCycle, hu, hu3, Nat.mul_succ, KeccakRegs.moves_add]
    rfl

end Sys2Proof.Machine
end

