-- ==== Sys2Proof/Laws/Memory.lean ====
section
/-! SUPPORT. The laws of MSG: a read after a write, what a write leaves alone, and that every operation keeps the canonical
form and the bounds. -/

namespace Sys2Proof.Machine.Memory

/-- A read of the byte just written gives it. -/
theorem read_write_same (m : Memory) (i : Nat) (v : Byte) : read? (write m i v) i = some v := by
  induction m with
  | nil => simp [write, read?]
  | cons c rest ih =>
    obtain ⟨a, u⟩ := c
    unfold write
    split
    · simp [read?]
    · split
      · simp [read?]
      · have hne : a ≠ i := fun e => by omega
        simp [read?, hne, ih]

/-- A write leaves every other byte alone. -/
theorem read_write_other (m : Memory) {i j : Nat} (v : Byte) (h : j ≠ i) : read? (write m i v) j = read? m j := by
  induction m with
  | nil => simp [write, read?, Ne.symm h]
  | cons c rest ih =>
    obtain ⟨a, u⟩ := c
    unfold write
    split
    · simp [read?, Ne.symm h]
    · split
      · rename_i _ e
        subst e
        simp [read?, Ne.symm h]
      · by_cases ha : a = j <;> simp [read?, ha, ih]

/-- The first index of a list is below the ones that follow; the form of `wf` that a cons needs. -/
theorem wf_cons (a : Nat) (u : Byte) (rest : Memory) :
    wf ((a, u) :: rest) = true ↔ (∀ c, rest.head? = some c → a < c.1) ∧ wf rest = true := by
  cases rest with
  | nil => simp [wf]
  | cons c rest => obtain ⟨b, v⟩ := c; simp [wf]

/-- What a write puts first. -/
theorem head_write (m : Memory) (i : Nat) (v : Byte) (c : Host.Cell) (h : (write m i v).head? = some c) :
    c.1 = i ∨ m.head? = some c := by
  cases m with
  | nil => simp [write] at h; subst h; exact .inl rfl
  | cons d rest =>
    obtain ⟨a, u⟩ := d
    unfold write at h
    split at h
    · simp at h; subst h; exact .inl rfl
    · split at h
      · simp at h; subst h; exact .inl rfl
      · simp at h; subst h; exact .inr rfl

/-- A write keeps the canonical form. -/
theorem write_wf (m : Memory) (i : Nat) (v : Byte) (h : wf m = true) : wf (write m i v) = true := by
  induction m with
  | nil => rfl
  | cons c rest ih =>
    obtain ⟨a, u⟩ := c
    have hc := (wf_cons a u rest).1 h
    unfold write
    split
    · rename_i hlt
      exact (wf_cons _ _ _).2 ⟨by rintro c ⟨⟩; exact hlt, h⟩
    · split
      · rename_i _ e
        subst e
        exact (wf_cons _ _ _).2 hc
      · refine (wf_cons _ _ _).2 ⟨fun c hcm => ?_, ih hc.2⟩
        rcases head_write rest i v c hcm with e | e
        · omega
        · exact hc.1 c e

/-- A write inside the buffer keeps every listed index inside it. -/
theorem write_below (m : Memory) {n i : Nat} (v : Byte) (hi : i < n) (h : below n m = true) :
    below n (write m i v) = true := by
  induction m with
  | nil => simp [write, below, hi]
  | cons c rest ih =>
    obtain ⟨a, u⟩ := c
    simp only [below, List.all_cons, Bool.and_eq_true, decide_eq_true_eq] at h
    unfold write
    split
    · simpa [below, hi] using h
    · split
      · simpa [below, hi] using h.2
      · have := ih h.2
        simpa [below, h.1] using this

theorem writeBytes_wf (m : Memory) (a : Nat) (vs : Bytes) (h : wf m = true) : wf (writeBytes m a vs) = true := by
  induction vs generalizing m a with
  | nil => exact h
  | cons v vs ih => exact ih _ _ (write_wf m a v h)

theorem writeBytes_below (m : Memory) {n : Nat} (a : Nat) (vs : Bytes) (ha : a + vs.length ≤ n) (h : below n m = true) :
    below n (writeBytes m a vs) = true := by
  induction vs generalizing m a with
  | nil => exact h
  | cons v vs ih =>
    simp only [List.length_cons] at ha
    exact ih _ _ (by omega) (write_below m v (by omega) h)

/-- What every byte reads after a run of bytes is written. -/
theorem read_writeBytes (m : Memory) (a : Nat) (vs : Bytes) (i : Nat) :
    read? (writeBytes m a vs) i = if a ≤ i ∧ i < a + vs.length then some (byteAt vs (i - a)) else read? m i := by
  induction vs generalizing m a with
  | nil => simp [writeBytes]
  | cons v vs ih =>
    simp only [writeBytes, ih, List.length_cons]
    by_cases h1 : i = a
    · subst h1
      have h2 : ¬(i + 1 ≤ i ∧ i < i + 1 + vs.length) := by omega
      have h3 : i ≤ i ∧ i < i + (vs.length + 1) := by omega
      rw [if_neg h2, if_pos h3, read_write_same]
      simp [byteAt]
    · by_cases h2 : a + 1 ≤ i ∧ i < a + 1 + vs.length
      · have h3 : a ≤ i ∧ i < a + (vs.length + 1) := by omega
        rw [if_pos h2, if_pos h3]
        obtain ⟨k, rfl⟩ : ∃ k, i = a + 1 + k := ⟨i - (a + 1), by omega⟩
        have e1 : a + 1 + k - (a + 1) = k := by omega
        have e2 : a + 1 + k - a = k + 1 := by omega
        rw [e1, e2]
        simp [byteAt]
      · have h3 : ¬(a ≤ i ∧ i < a + (vs.length + 1)) := by omega
        rw [if_neg h2, if_neg h3, read_write_other m v h1]

/-- Reset leaves MSG in the canonical form. -/
theorem reset_wf : wf State.reset.msg = true := rfl

end Sys2Proof.Machine.Memory
end

