-- ==== Sys2Proof/Laws/Step.lean ====
section
/-! SUPPORT. What a bus write and a step can do, said once: later proofs cite these and do not unfold `step`. -/

namespace Sys2Proof.Machine

/-- Everything `accept` can answer (44_dispatch.md R222), in IDLE. -/
theorem accept_cases (c : Word) {s : State} (h : s.busy = false) :
    (∃ e, decode c = .error e ∧ accept c s = .next (rejectWord c e s)) ∨
    (∃ i, decode c = .ok i ∧ accept c s = .next (acceptance i s)) := by
  unfold accept
  cases hd : decode c with
  | error e => exact .inl ⟨e, rfl, rfl⟩
  | ok i => exact .inr ⟨i, rfl, exec_idle i h⟩

/-- The only error the decoder gives (30_encoding.md R85). -/
theorem decode_error {c : Word} {e : CmdError} (h : decode c = .error e) : e = .illegalCommand := by
  unfold decode at h
  split at h <;> try cases h
  split at h <;> try cases h
  split at h <;> try cases h
  split at h <;> cases h
  rfl

/-- Everything `busWrite` can answer: it never stops (20_memory.md R52, R60). -/
theorem busWrite_cases (off data : Word) (s : State) :
    (s.busy = true ∧ busWrite off data s = .next (setWign s)) ∨
    (busWrite off data s = .next s) ∨
    (targetIn s off = .status ∧ busWrite off data s = .next (writeStatus data s)) ∨
    (s.busy = false ∧ targetIn s off = .cmd ∧ ∃ e, decode data = .error e ∧
      busWrite off data s = .next (rejectWord data e { s with cmd := data })) ∨
    (s.busy = false ∧ targetIn s off = .cmd ∧ ∃ i, decode data = .ok i ∧
      busWrite off data s = .next (acceptance i { s with cmd := data })) ∨
    (s.busy = false ∧ targetIn s off = .len ∧ busWrite off data s = .next { s with len := data }) ∨
    (s.busy = false ∧ ∃ k, targetIn s off = .digest k ∧
      busWrite off data s = .next { s with digest := putDigestWord s.digest k data }) ∨
    (s.busy = false ∧ ∃ k, targetIn s off = .msg k ∧
      busWrite off data s = .next { s with msg := Memory.writeBytes s.msg (4 * k) (le32Bytes data) }) := by
  have hb : s.busy = true ∨ s.busy = false := by cases s.busy <;> simp
  unfold busWrite
  cases ht : targetIn s off with
  | cmd =>
    rcases hb with h | h
    · exact .inl ⟨h, by simp [writeCmd, h]⟩
    · have e : writeCmd data s = accept data { s with cmd := data } := by simp [writeCmd, h]
      simp only [e]
      rcases accept_cases data (s := { s with cmd := data }) h with ⟨e, hd, ha⟩ | ⟨i, hd, ha⟩
      · exact .inr (.inr (.inr (.inl ⟨h, trivial, e, hd, ha⟩)))
      · exact .inr (.inr (.inr (.inr (.inl ⟨h, trivial, i, hd, ha⟩))))
  | len =>
    rcases hb with h | h
    · exact .inl ⟨h, by simp [writeLen, writeIfIdle, h]⟩
    · refine .inr (.inr (.inr (.inr (.inr (.inl ⟨h, rfl, ?_⟩)))))
      simp [writeLen, writeIfIdle, h]
  | status => exact .inr (.inr (.inl ⟨rfl, rfl⟩))
  | digest k =>
    rcases hb with h | h
    · exact .inl ⟨h, by simp [writeDigest, writeIfIdle, h]⟩
    · refine .inr (.inr (.inr (.inr (.inr (.inr (.inl ⟨h, k, rfl, ?_⟩))))))
      simp [writeDigest, writeIfIdle, h]
  | msg k =>
    rcases hb with h | h
    · exact .inl ⟨h, by simp [writeMsg, writeIfIdle, h]⟩
    · refine .inr (.inr (.inr (.inr (.inr (.inr (.inr ⟨h, k, rfl, ?_⟩))))))
      simp [writeMsg, writeIfIdle, h]
  | msgcap => exact .inr (.inl rfl)
  | hex k => exact .inr (.inl rfl)
  | unmapped => exact .inr (.inl rfl)

/-- Where an offset that is a MSG word lies (20_memory.md R51). -/
theorem target_msg {cap : Nat} {off : Word} {k : Nat} (h : target cap off = .msg k) : k < cap / 4 := by
  unfold target at h
  simp only at h
  repeat' split at h
  all_goals try cases h
  omega

/-- The engine's step when it is its turn: the completion of the latched command, or the stop of a state no run reaches. -/
theorem engineStep_cases {s : State} (h : s.busy = true) :
    (∃ i, latchedInstr s = some i ∧ engineStep s = .next (completion i s)) ∨
    (latchedInstr s = none ∧ engineStep s = .fault .engineStuck) := by
  unfold engineStep
  cases hl : latchedInstr s with
  | none => exact .inr ⟨rfl, rfl⟩
  | some i => exact .inl ⟨i, rfl, exec_inFlight i h hl⟩

/-- Complete is enabled only while BUSY = 1 (44_dispatch.md R225). -/
theorem engineTurn_busy {s : State} (h : engineTurn s = true) : s.busy = true := by
  unfold engineTurn at h
  simp only [Bool.and_eq_true] at h
  exact h.1

/-- Everything a step can do (20_memory.md R68, 70_reset_and_hazards.md R280). -/
theorem step_cases (s : State) :
    (∃ rest, s.program = .reset :: rest ∧ step s = .next (resetBlock { s with program := rest })) ∨
    (engineTurn s = true ∧ step s = engineStep s) ∨
    (engineTurn s = false ∧ s.program = [] ∧ step s = .next s) ∨
    (engineTurn s = false ∧ ∃ ev rest, s.program = ev :: rest ∧ ev ≠ .reset ∧ step s = hostStep ev (takeEvent rest s)) := by
  unfold step agentStep
  cases hp : s.program with
  | nil =>
    cases he : engineTurn s with
    | true => exact .inr (.inl ⟨rfl, by simp⟩)
    | false => exact .inr (.inr (.inl ⟨rfl, rfl, by simp⟩))
  | cons ev rest =>
    by_cases hr : ev = .reset
    · subst hr
      exact .inl ⟨rest, rfl, rfl⟩
    · cases he : engineTurn s with
      | true => exact .inr (.inl ⟨rfl, by cases ev <;> first | rfl | contradiction⟩)
      | false =>
        exact .inr (.inr (.inr ⟨rfl, ev, rest, rfl, hr, by cases ev <;> rfl⟩))

/-- A host step that is no write changes the host's part only (20_memory.md R59): a POLL that fails stays, every other line
is taken off. -/
theorem hostStep_cases (ev : HostEvent) (s : State) (hr : ev ≠ .reset) :
    (∃ off data, ev = .write off data ∧ hostStep ev s = busWrite off data s) ∨
    (∃ v program, (program = s.program ∨ program = ev :: s.program) ∧
      hostStep ev s = .next { s with program := program, hostReads := v :: s.hostReads }) := by
  cases ev with
  | read off => exact .inr ⟨busRead s off, s.program, .inl rfl, rfl⟩
  | write off data => exact .inl ⟨off, data, rfl, rfl⟩
  | poll off mask value =>
    refine .inr ?_
    unfold hostStep
    by_cases h : busRead s off &&& mask = value
    · exact ⟨busRead s off, s.program, .inl rfl, by simp [h, returnRead]⟩
    · exact ⟨busRead s off, .poll off mask value :: s.program, .inr rfl, by simp [h, returnRead]⟩
  | reset => exact absurd rfl hr

/-- A bus write always answers a next state (20_memory.md R56). -/
theorem busWrite_next (off data : Word) (s : State) : ∃ t, busWrite off data s = .next t := by
  rcases busWrite_cases off data s with
    ⟨_, h⟩ | h | ⟨_, h⟩ | ⟨_, _, _, _, h⟩ | ⟨_, _, _, _, h⟩ | ⟨_, _, h⟩ | ⟨_, _, _, h⟩ | ⟨_, _, _, h⟩ <;> exact ⟨_, h⟩

/-- The form in which later proofs use a step that goes on: what was at the head of the program, and the next state. -/
theorem step_next {s t : State} (h : step s = .next t) :
    (∃ rest, s.program = .reset :: rest ∧ t = resetBlock { s with program := rest }) ∨
    (engineTurn s = true ∧ ∃ i, latchedInstr s = some i ∧ t = completion i s) ∨
    (engineTurn s = false ∧ s.program = [] ∧ t = s) ∨
    (engineTurn s = false ∧ ∃ off data rest, s.program = .write off data :: rest ∧
      busWrite off data (takeEvent rest s) = .next t) ∨
    (engineTurn s = false ∧ ∃ ev rest v program, s.program = ev :: rest ∧ (program = rest ∨ program = ev :: rest) ∧
      t = { s with program := program, hostReads := v :: s.hostReads, wait := s.wait - 1 }) := by
  rcases step_cases s with ⟨rest, hp, hs⟩ | ⟨he, hs⟩ | ⟨he, hp, hs⟩ | ⟨he, ev, rest, hp, hr, hs⟩
  · rw [hs] at h
    cases h
    exact .inl ⟨rest, hp, rfl⟩
  · rw [hs] at h
    rcases engineStep_cases (engineTurn_busy he) with ⟨i, hi, hc⟩ | ⟨_, hc⟩
    · rw [hc] at h
      cases h
      exact .inr (.inl ⟨he, i, hi, rfl⟩)
    · rw [hc] at h
      cases h
  · rw [hs] at h
    cases h
    exact .inr (.inr (.inl ⟨he, hp, rfl⟩))
  · rw [hs] at h
    rcases hostStep_cases ev (takeEvent rest s) hr with ⟨off, data, rfl, hw⟩ | ⟨v, program, hprog, hw⟩
    · rw [hw] at h
      exact .inr (.inr (.inr (.inl ⟨he, off, data, rest, hp, h⟩)))
    · rw [hw] at h
      cases h
      exact .inr (.inr (.inr (.inr ⟨he, ev, rest, v, program, hp, hprog, rfl⟩)))

/-- When it is the engine's turn. -/
theorem engineTurn_iff (s : State) : engineTurn s = true ↔ s.busy = true ∧ (s.program = [] ∨ s.wait = 0) := by
  simp [engineTurn]

/-! ### The address map (20_memory.md R51) -/

/-- The word offset clears the low two bits (20_memory.md R56). -/
theorem wordOffset_eq (off : Word) : wordOffset off = off.toNat / 4 * 4 := by
  have e : off &&& ~~~(3 : Word) = (off >>> 2) <<< 2 := by
    apply BitVec.eq_of_getLsbD_eq
    intro i hi
    interval_cases i <;> simp
  unfold wordOffset
  rw [e, BitVec.toNat_shiftLeft, BitVec.toNat_ushiftRight, Nat.shiftRight_eq_div_pow, Nat.shiftLeft_eq]
  have := off.isLt
  omega

/-- The word offset is a multiple of 4. -/
theorem wordOffset_mod (off : Word) : wordOffset off % 4 = 0 := by
  rw [wordOffset_eq]
  omega

/-- Offset 0x000 is CMD, and no other word offset is. -/
theorem targetIn_cmd {s : State} {off : Word} : targetIn s off = .cmd ↔ wordOffset off = 0x000 := by
  refine ⟨fun h => ?_, fun h => by simp [targetIn, target, h]⟩
  unfold targetIn target at h
  simp only at h
  (repeat' split at h) <;> first | assumption | cases h

/-- The word offset of DIGEST word `k`. -/
theorem targetIn_digest {s : State} {off : Word} {k : Nat} (hk : k < 8) (h : wordOffset off = 0x020 + 4 * k) :
    targetIn s off = .digest k := by
  unfold targetIn target
  simp only [h]
  (repeat' split) <;> first | omega | (congr 1; omega)

/-- The word offset of HEX word `k`. -/
theorem targetIn_hex {s : State} {off : Word} {k : Nat} (hk : k < 17) (h : wordOffset off = 0x040 + 4 * k) :
    targetIn s off = .hex k := by
  unfold targetIn target
  simp only [h]
  (repeat' split) <;> first | omega | (congr 1; omega)

/-- The word offset of MSG word `k`. -/
theorem targetIn_msg {s : State} {off : Word} {k : Nat} (hk : k < s.msgcap.toNat / 4)
    (h : wordOffset off = 0x1000 + 4 * k) : targetIn s off = .msg k := by
  unfold targetIn target
  simp only [h]
  (repeat' split) <;> first | omega | (congr 1; omega)

/-! ### MSG after a word is written -/

/-- Byte `a` of MSG after word `k` is written (20_memory.md R62). -/
theorem msgByte_writeWord (s : State) (k : Nat) (data : Word) (a : Nat) :
    msgByte { s with msg := Memory.writeBytes s.msg (4 * k) (le32Bytes data) } a =
      if 4 * k ≤ a ∧ a < 4 * k + 4 then byteOf data (a - 4 * k) else msgByte s a := by
  unfold msgByte
  simp only [Memory.read_writeBytes]
  by_cases h : 4 * k ≤ a ∧ a < 4 * k + 4
  · rw [if_pos (by simpa using h), if_pos h]
    obtain ⟨j, rfl⟩ : ∃ j, a = 4 * k + j := ⟨a - 4 * k, by omega⟩
    have hj : j < 4 := by omega
    have e : 4 * k + j - 4 * k = j := by omega
    rw [e]
    interval_cases j <;> rfl
  · rw [if_neg (by simpa using h), if_neg h]

end Sys2Proof.Machine
end

