-- ==== Sys2Proof/Laws/Host.lean ====
section
/-! SUPPORT. The host's programs: runs put end to end, one write of a program, and the reading of an answer. -/

namespace Sys2Proof.Machine

/-- Two runs put end to end. -/
theorem Steps.append {m n : Nat} {s t u : State} (h1 : Steps m s t) (h2 : Steps n t u) : Steps (n + m) s u := by
  induction h1 with
  | refl _ => exact h2
  | tail first _ ih => exact .tail first (ih h2)

/-- A host event is the step while it is not the engine's turn. -/
theorem step_host {s : State} {ev : HostEvent} {rest : List HostEvent} (hp : s.program = ev :: rest) (hr : ev ≠ .reset)
    (he : engineTurn s = false) : step s = hostStep ev (takeEvent rest s) := by
  unfold step agentStep
  cases ev <;> simp_all

/-- ERR is what the host finds in the STATUS word it reads (10_state.md R26). -/
@[simp] theorem errOfStatus_statusWord (s : State) : errOfStatus (statusWord s) = s.err := by
  have key : ∀ (e : BitVec 4) (a b c : Bool),
      errOfStatus (e.setWidth 32 <<< 4 ||| bitWord a <<< 2 ||| bitWord b <<< 1 ||| bitWord c) = e := by decide
  exact key _ _ _ _

/-- The host maps the code of an error back to the error (60_exceptions.md R250). -/
@[simp] theorem errorOfCode_code (e : CmdError) : errorOfCode e.code = some e := by cases e <;> rfl

/-- An error reads no characters (44_dispatch.md R232). -/
theorem resultReads_of_error {status : Word} (h : errOfStatus status ≠ 0) : resultReads status = [] := if_neg h

/-- An error is the answer by its kind (44_dispatch.md R232). -/
theorem callAnswer_of_error {status : Word} (h : errOfStatus status ≠ 0) (words : List Word) :
    callAnswer status words = (errorOfCode (errOfStatus status)).map .error := if_neg h

/-- Success is the answer by the characters read (44_dispatch.md R232). -/
theorem callAnswer_of_success {status : Word} (h : errOfStatus status = 0) (words : List Word) :
    callAnswer status words = some (.ok (words.flatMap le32Bytes)) := if_pos h

end Sys2Proof.Machine
end

