-- ==== Sys2Proof/Laws/PerInstr.lean ====
section
/-! SUPPORT. The per-instruction family EncodesInRow: the assembled word of an instruction (30_encoding.md R89) is legal for
its own row of the opcode map (R84). One lemma per constructor of Instr. -/

namespace Sys2Proof.Laws.EncodesInRow

/-- The word of a well-formed instruction matches the row of its mnemonic. -/
def Statement (i : Instr) : Prop := i.wellFormed = true → i.row.holds (encode i) = true

theorem digest (srcv : Bool) (tag : Nat) : Statement (.digest srcv tag) := by
  intro h
  have hn : tag < 256 := by simpa [Instr.wellFormed] using h
  have key : ∀ (a : BitVec 8) (b : Bool),
      rowDigest.holds (a.setWidth 32 <<< 16 ||| srcBit b <<< 8 ||| 0x1) = true := by decide +kernel
  have e : BitVec.ofNat 32 tag = (BitVec.ofNat 8 tag).setWidth 32 := by
    apply BitVec.eq_of_toNat_eq
    simp
    omega
  show rowDigest.holds (BitVec.ofNat 32 tag <<< 16 ||| srcBit srcv <<< 8 ||| 0x1) = true
  rw [e]
  exact key _ _

theorem sha256 (srcv : Bool) : Statement (.sha256 srcv) := by
  intro _
  cases srcv <;> decide

theorem sha3_256 (srcv : Bool) : Statement (.sha3_256 srcv) := by
  intro _
  cases srcv <;> decide

theorem hexenc : Statement .hexenc := by
  intro _
  decide

end Sys2Proof.Laws.EncodesInRow
end

