-- ==== Sys2Proof/Tests/Slice0.lean ====
section
/-! SUPPORT. Tests of the model and a witness for every statement that has hypotheses. Expected values are those of
spec/95_test_vectors.md (V<n>, P<n>) or are written out from the rule a test names. -/

namespace Sys2Proof.Tests

open Sys2Proof.Machine

/-! ### Helpers -/

/-- Does an outcome go on to a state in which `p` holds? -/
def nextHas (o : StepOutcome) (p : State → Bool) : Bool :=
  match o with
  | .next t => p t
  | .fault _ => false
  | .refused _ => false

/-- An idle block with the least buffer, no message, and no latency for the next commands. -/
def idle : State := { State.reset with msgcap := 256, latencies := [0, 0, 0, 0] }

/-- An idle block with "abc" in MSG and LEN = 3. -/
def abc : State := { idle with msg := [(0, 0x61), (1, 0x62), (2, 0x63)], len := 3 }

/-- "abc" with a command in flight. -/
def flying (i : Instr) : State :=
  { abc with cmd := encode i, busy := true, opL := opOf i, algL := algOf i, lenL := 3 }

/-- The same, with the host's next event and two host steps before the completion. -/
def waiting (i : Instr) (ev : HostEvent) : State := { flying i with program := [ev], wait := 2 }

/-- Acceptance of a word at a length, seen in STATUS. -/
def statusAfter (c len : Word) : Word :=
  match busWrite offCmd c { idle with len := len } with
  | .next t => statusWord t
  | .fault _ => 0
  | .refused _ => 0

/-! ### WellFormed (R82, R89) -/

/-- ALG has 8 bits: 256 is no tag number, 255 is one. -/
theorem test_wellFormed_tag : (Instr.digest true 256).wellFormed = false ∧ (Instr.digest true 255).wellFormed = true := by
  decide

/-- SRCV is one bit, and HEXENC has no operand, so every other term is well-formed. -/
theorem test_wellFormed_others : (Instr.sha256 false).wellFormed = true ∧ (Instr.sha3_256 true).wellFormed = true ∧
    Instr.hexenc.wellFormed = true := by decide

/-! ### Decoding: the words bit by bit, as RSV2, ALG, RSV1, SRCV, RSV0, OP (R81) -/

/-- DIGEST with SRCV = 1 and ALG = 0x63. -/
theorem test_decode_digest :
    decode 0b00000000_01100011_0000000_1_0000_0001 = .ok (.digest true 99) := by decide

/-- DIGEST with SRCV = 0 and ALG = 0xFF. -/
theorem test_decode_digest_null :
    decode 0b00000000_11111111_0000000_0_0000_0001 = .ok (.digest false 255) := by decide

/-- SHA256 with SRCV = 1 and with SRCV = 0. -/
theorem test_decode_sha256 :
    decode 0b00000000_00000000_0000000_1_0000_0010 = .ok (.sha256 true) ∧
    decode 0b00000000_00000000_0000000_0_0000_0010 = .ok (.sha256 false) := by decide

/-- SHA3_256 with SRCV = 1 and with SRCV = 0. -/
theorem test_decode_sha3_256 :
    decode 0b00000000_00000000_0000000_1_0000_0011 = .ok (.sha3_256 true) ∧
    decode 0b00000000_00000000_0000000_0_0000_0011 = .ok (.sha3_256 false) := by decide

/-- HEXENC. -/
theorem test_decode_hexenc : decode 0b00000000_00000000_0000000_0_0000_0100 = .ok .hexenc := by decide

/-- V10: the illegal words. -/
theorem test_decode_illegal :
    ([0x00000000, 0x00000111, 0x00000301, 0x01000101, 0x00010102, 0x00010103, 0x00000104, 0x00010004, 0x00000005,
      0x0000000F, 0xFFFFFFFF, 0x00630011] : List Word).all (fun c => decode c == .error .illegalCommand) = true := by decide

/-- V11: assembly. -/
theorem test_encode :
    encode (.digest true 1) = 0x00010101 ∧ encode (.digest false 99) = 0x00630001 ∧ encode (.sha256 true) = 0x00000102 ∧
    encode (.sha3_256 false) = 0x00000003 ∧ encode .hexenc = 0x00000004 := by decide

/-- The host's way in reads the same words. -/
theorem test_decodeTableWord :
    decodeTableWord 32 0x00010101 = some (.digest true 1) ∧ decodeTableWord 32 0x00000104 = none := by decide

/-! ### Acceptance (R222, R223) -/

/-- V12, the accepted rows. -/
theorem test_accepted :
    statusAfter 0x00000101 0 = 0x00000001 ∧ statusAfter 0x00000004 0xFFFFFFFF = 0x00000001 := by decide +kernel

/-- V12, the rejected rows: the first check that fails decides. -/
theorem test_rejected :
    statusAfter 0x00000101 257 = 0x00000042 ∧ statusAfter 0x00000001 0xFFFFFFFF = 0x00000012 ∧
    statusAfter 0x00630001 3 = 0x00000012 ∧ statusAfter 0x00630101 257 = 0x00000042 ∧
    statusAfter 0x00630101 12 = 0x00000022 ∧ statusAfter 0x00020101 0 = 0x00000022 ∧
    statusAfter 0x00000103 0xFFFFFFFF = 0x00000042 ∧ statusAfter 0x00000104 0 = 0x00000052 ∧
    statusAfter 0x00630011 0 = 0x00000052 := by decide +kernel

/-- The first step after a word is placed for the host to write runs it (log 1): HEXENC is accepted. -/
theorem test_withFetchWord : step (State.reset.withFetchWord 32 0x00000004) =
    exec .hexenc { State.reset with cmd := 0x00000004 } := by rfl

/-! ### SHA-256 -/

/-- V20: "abc" is padded to `61626380`, zeros and `00000018`. -/
theorem test_pad256 : blockWords (block256 (pad256 [0x61, 0x62, 0x63]) 0) =
    [0x61626380] ++ List.replicate 14 0 ++ [0x00000018] := by decide +kernel

/-- V20: 56 bytes need a second block, of zeros and the length `000001c0`. -/
theorem test_pad256_two : (pad256 (List.replicate 56 0x61)).length = 128 ∧
    blockWords (block256 (pad256 (List.replicate 56 0x61)) 1) = List.replicate 15 0 ++ [0x000001c0] := by decide +kernel

/-- V30: Ch and Maj. -/
theorem test_ch_maj : ch 0xff00ff00 0x12345678 0x9abcdef0 = 0x12bc56f0 ∧
    maj 0xff00ff00 0x12345678 0x9abcdef0 = 0x9a34de70 := by decide

/-- V30: the four sigma functions on IV words. -/
theorem test_sigma : bigSigma0 0x510e527f = 0x7ef0e1a9 ∧ bigSigma1 0x6a09e667 = 0x55b65510 ∧
    smallSigma0 0x6a09e667 = 0xba0cf582 ∧ smallSigma1 0x510e527f = 0xe3640132 := by decide

/-- V32: words 16 to 23 of the schedule of "abc". -/
theorem test_schedule : (schedUpTo ([0x61626380] ++ List.replicate 14 0 ++ [0x00000018]) 8).drop 16 =
    [0x61626380, 0x000f0000, 0x7da86405, 0x600003c6, 0x3e9d7b78, 0x0183fc00, 0x12dcbfdb, 0xe2e2c38e] := by decide +kernel

/-- V33: the working variables after round 0 and after round 1. -/
theorem test_round256 :
    round256 (kConst 0) 0x61626380 sha256IV =
      ⟨0x5d6aebcd, 0x6a09e667, 0xbb67ae85, 0x3c6ef372, 0xfa2a4622, 0x510e527f, 0x9b05688c, 0x1f83d9ab⟩ ∧
    round256 (kConst 1) 0 (round256 (kConst 0) 0x61626380 sha256IV) =
      ⟨0x5a6ad9ad, 0x5d6aebcd, 0x6a09e667, 0xbb67ae85, 0x78ce7989, 0xfa2a4622, 0x510e527f, 0x9b05688c⟩ := by
  decide +kernel

/-- V34: the whole function on "abc". -/
theorem test_sha256 : sha256 [0x61, 0x62, 0x63] = bytesToVector 32
    [0xba, 0x78, 0x16, 0xbf, 0x8f, 0x01, 0xcf, 0xea, 0x41, 0x41, 0x40, 0xde, 0x5d, 0xae, 0x22, 0x23,
     0xb0, 0x03, 0x61, 0xa3, 0x96, 0x17, 0x7a, 0x9c, 0xb4, 0x10, 0xff, 0x61, 0xf2, 0x00, 0x15, 0xad] := by decide +kernel

/-- V33: with UNROLL = 1, one cycle after the acceptance of SHA256 on "abc" is round 0. -/
theorem test_engineCycle_one : (engineCycle 1 (acceptance (.sha256 true) abc)).sha.vars =
    ⟨0x5d6aebcd, 0x6a09e667, 0xbb67ae85, 0x3c6ef372, 0xfa2a4622, 0x510e527f, 0x9b05688c, 0x1f83d9ab⟩ := by decide +kernel

/-- V34: fully unrolled, with UNROLL = 64, one cycle computes the whole block and feeds it. -/
theorem test_engineCycle_unrolled : (engineCycle 64 (acceptance (.digest true 0) abc)).sha.hash =
    ⟨0xba7816bf, 0x8f01cfea, 0x414140de, 0x5dae2223, 0xb00361a3, 0x96177a9c, 0xb410ff61, 0xf20015ad⟩ := by decide +kernel

/-! ### SHA3-256 -/

/-- V60: the padded blocks of the empty message, and of 135 and 136 bytes. -/
theorem test_pad3 : pad3 [] = [0x06] ++ List.replicate 134 0x00 ++ [0x80] ∧
    pad3 (List.replicate 135 0x61) = List.replicate 135 0x61 ++ [0x86] ∧
    block3 (pad3 (List.replicate 136 0x61)) 1 = [0x06] ++ List.replicate 134 0x00 ++ [0x80] := by decide +kernel

/-- V60: the lanes that the block of "abc" changes in a zero state. -/
theorem test_xorBlock : xorBlock zeroLanes (block3 (pad3 [0x61, 0x62, 0x63]) 0) =
    lanesOf fun x y => if x = 0 ∧ y = 0 then 0x0000000006636261 else if x = 1 ∧ y = 3 then 0x8000000000000000 else 0 := by
  decide +kernel

/-- A state with one lane that is not zero. -/
def oneLane (x y : Nat) (v : Lane) : Lanes := lanesOf fun a b => if a = x ∧ b = y then v else 0

/-- V61: θ. -/
theorem test_theta : theta (oneLane 0 0 1) =
    lanesOf fun x y => if x = 0 ∧ y = 0 then 1 else if x = 1 then 1 else if x = 4 then 2 else 0 := by decide +kernel

/-- V62: ρ rotates A[1][0] by 1 and A[0][0] by 0; by R169, r[4][2] = 39. -/
theorem test_rho : rho (oneLane 1 0 1) = oneLane 1 0 2 ∧ rho (oneLane 0 0 1) = oneLane 0 0 1 ∧
    rho (oneLane 4 2 1) = oneLane 4 2 0x8000000000 := by decide +kernel

/-- V63: π. -/
theorem test_pi : piStep (oneLane 1 0 1) = oneLane 0 2 1 ∧ piStep (oneLane 0 0 1) = oneLane 0 0 1 := by decide +kernel

/-- V64: χ on one row. -/
theorem test_chi : (List.range 5).map (fun x => lane (chi (oneLane 2 0 0xffffffffffffffff)) x 0) =
    [0xffffffffffffffff, 0, 0xffffffffffffffff, 0, 0] := by decide +kernel

/-- V65: one round on the zero state. -/
theorem test_keccakRound : keccakRound zeroLanes 0 = oneLane 0 0 0x0000000000000001 := by decide +kernel

/-! ### The hex encoder -/

/-- V70. -/
theorem test_hexDigit : hexDigit 0x0 = 0x30 ∧ hexDigit 0x9 = 0x39 ∧ hexDigit 0xa = 0x61 ∧ hexDigit 0xf = 0x66 := by decide

/-- V73: DIGEST byte `j` = 8j, and HEX words 0, 1 and 15. -/
theorem test_hexenc :
    nextHas (exec .hexenc { flying .hexenc with digest := bytesToVector 32 ((List.range 32).map fun j => BitVec.ofNat 8 (8 * j)) })
      (fun t => hexWord t 0 == 0x38303030 && hexWord t 1 == 0x38313031 && hexWord t 15 == 0x38663066) = true := by
  decide +kernel

/-- V71: HEXENC on the reset value of DIGEST; word 16 stays 0. -/
theorem test_hexenc_zero :
    nextHas (exec .hexenc (flying .hexenc)) (fun t => hexWord t 7 == 0x30303030 && hexWord t 16 == 0 && t.done) = true := by
  decide +kernel

/-! ### The commands -/

/-- V74: DIGEST.SHA256 of "abc": DIGEST word 7, HEX words 0 and 15, STATUS. -/
theorem test_digest :
    nextHas (exec (.digest true 0) (flying (.digest true 0)))
      (fun t => digestWord t 7 == 0xad1500f2 && hexWord t 0 == 0x38376162 && hexWord t 15 == 0x64613531 &&
        statusWord t == 0x00000002) = true := by decide +kernel

/-- V6: the tag 99 is rejected with ERR = 2, and HEX keeps its value. -/
theorem test_digest_tag :
    nextHas (exec (.digest true 99) abc) (fun t => statusWord t == 0x00000022 && hexWord t 0 == 0) = true := by decide +kernel

/-- V74: SHA256 of "abc": DIGEST word 0; HEX keeps its value (R140). -/
theorem test_sha256_command :
    nextHas (exec (.sha256 true) (flying (.sha256 true)))
      (fun t => digestWord t 0 == 0xbf1678ba && hexWord t 0 == 0 && statusWord t == 0x00000002) = true := by decide +kernel

/-- P2: SHA3_256 of "abc": DIGEST word 0 is `0xa75d983a`, and the HEX word read after it is stale. -/
theorem test_sha3_256_command :
    nextHas (exec (.sha3_256 true) (flying (.sha3_256 true)))
      (fun t => digestWord t 0 == 0xa75d983a && hexWord t 0 == 0 && statusWord t == 0x00000002) = true := by decide +kernel

/-- R103: the message is `MSG[0 .. LEN_L)`; with LEN_L = 2 it is "ab" (V13). -/
theorem test_message : message (flying (.sha256 true)) = [0x61, 0x62, 0x63] ∧
    message { flying (.sha256 true) with lenL := 2 } = [0x61, 0x62] := by decide

/-! ### The bus -/

/-- R62: a MSG word is stored least significant byte first. -/
theorem test_write_msg :
    nextHas (busWrite (offMsg 4) 0x04030201 idle) (fun t => t.msg == [(4, 0x01), (5, 0x02), (6, 0x03), (7, 0x04)]) = true := by
  decide +kernel

/-- R91: WRSTR of "abc" at MSG+0 is one write of `0x00636261`, as P2 lists it. -/
theorem test_wrstr : wrstr (offMsg 0) [0x61, 0x62, 0x63] = [.write 0x1000 0x00636261] := by decide

/-- R232, step 5: V1's STATUS and its first two HEX words give the characters "e3b0c442"; V6's STATUS gives the error kind. -/
theorem test_callAnswer :
    (callAnswer 0x00000002 [0x30623365, 0x32343463] matches some (.ok [0x65, 0x33, 0x62, 0x30, 0x63, 0x34, 0x34, 0x32])) = true ∧
    (callAnswer 0x00000022 [] matches some (.error .unsupportedAlgorithm)) = true := by decide

/-- R232, step 5: the 16 HEX words are read after success, and none after an error. -/
theorem test_resultReads : (resultReads 0x00000002).length = 16 ∧ (resultReads 0x00000002).head? = some (.read 0x040) ∧
    (resultReads 0x00000002).getLast? = some (.read 0x07C) ∧ resultReads 0x00000012 = [] := by decide

/-- R29: while BUSY = 1, a LEN write only sets WIGN; the STATUS word is then `0x00000005`. -/
theorem test_wign :
    nextHas (busWrite offLen 9 (flying .hexenc)) (fun t => statusWord t == 0x00000005 && t.len == 3) = true := by
  decide +kernel

/-- R280: reset in BUSY, at the head of the host's program, wins. -/
theorem test_reset :
    nextHas (step (waiting .hexenc .reset)) (fun t => statusWord t == 0 && t.msg == [] && t.len == 0 && t.msgcap == 256) = true := by
  decide +kernel

/-! ### A witness for every statement that has hypotheses -/

/-- A command in flight on "abc" satisfies the invariant, if its word decodes to it. -/
theorem flying_inv (i : Instr) (hd : decode (encode i) = .ok i) (hop : opOf i = fieldOp (encode i))
    (halg : algOf i = fieldAlg (encode i)) (hl : latchedInstr (flying i) = some i) : (flying i).Inv := by
  have hcap : capAdmissible (256 : Word).toNat := by
    unfold capAdmissible
    decide
  refine ⟨hcap, .inl rfl, .inl rfl, ⟨rfl, rfl⟩, fun _ => ?_, fun h => by cases h⟩
  exact ⟨rfl, rfl, hop, halg, rfl, ⟨i, hl, hd⟩, fun _ => show (3 : Word).toNat ≤ (256 : Word).toNat by decide⟩

/-- Reads, writes and unmapped words (BusReadByOffset, UnmappedAccess, MsgcapIsConstant, StatusLayoutAndWrite, CmdWrite,
LenWrite, OutputRegistersIgnoreWrites, HexTerminator, WrittenWordReadsBack, ResetReadsAsSpecified): an offset at each end of
each range, with MSG_BUF_BYTES = 256. -/
theorem witness_offsets :
    [0x003, 0x007, 0x00B, 0x00F, 0x020, 0x03F, 0x040, 0x07F, 0x080, 0x083, 0x1000, 0x10FF].map wordOffset =
      [0x000, 0x004, 0x008, 0x00C, 0x020, 0x03C, 0x040, 0x07C, 0x080, 0x080, 0x1000, 0x10FC] ∧
    [0x010, 0x01F, 0x084, 0xFFF, 0x1100, 0xFFFFFFFF].map wordOffset =
      [0x010, 0x01C, 0x084, 0xFFC, 0x1100, 0xFFFFFFFC] ∧
    idle.msgcap.toNat / 4 = 64 ∧ idle.busy = false ∧ (flying .hexenc).busy = true := by decide

/-- The same offsets name the registers they should, the clauses of BusReadByOffset among them. -/
theorem witness_targets :
    [0x003, 0x007, 0x00B, 0x00F, 0x020, 0x03F, 0x040, 0x07F, 0x080, 0x1000, 0x10FF].map (targetIn idle) =
      [.cmd, .len, .status, .msgcap, .digest 0, .digest 7, .hex 0, .hex 15, .hex 16, .msg 0, .msg 63] ∧
    [0x010, 0x01F, 0x084, 0xFFF, 0x1100, 0xFFFFFFFF].map (targetIn idle) = List.replicate 6 .unmapped := by decide

/-- IllegalWordsExactly: an illegal word, an idle state, and CMD's offset; and a legal word. -/
theorem witness_IllegalWordsExactly : decode 0x00000104 = .error .illegalCommand ∧ idle.busy = false ∧ wordOffset 3 = 0 ∧
    decode 0x00FF0101 = .ok (.digest true 255) := by decide

/-- DecodeOfEncode and EncodeOfDecode, with the greatest tag. -/
theorem witness_DecodeOfEncode : (Instr.digest false 255).wellFormed = true ∧ decode 0x00FF0001 = .ok (.digest false 255) := by
  decide

/-- OffsetLowBitsIgnored: two offsets of one word. -/
theorem witness_OffsetLowBitsIgnored : (0x1004 : Word) &&& ~~~(3 : Word) = 0x1007 &&& ~~~(3 : Word) := by decide

/-- MsgcapIsConstant, WignChangesOnlyByRule, BusyChangesOnlyByRule, FrozenWhileBusy, OutputsChangeOnlyByRule: a step that sets
WIGN and keeps BUSY. -/
theorem witness_step_sets_wign :
    step (waiting .hexenc (.write offLen 9)) =
      .next { waiting .hexenc (.write offLen 9) with program := [], wait := 1, wign := true } := by rfl

/-- WignChangesOnlyByRule: a step that clears WIGN, by STATUS and by reset. -/
theorem witness_step_clears_wign :
    nextHas (step { waiting .hexenc (.write offStatus 4) with wign := true }) (fun t => !t.wign) = true ∧
    nextHas (step { waiting .hexenc .reset with wign := true }) (fun t => !t.wign) = true := by decide +kernel

/-- MsgWordWrite and DigestWordWrite: the first and the last word, in either phase. -/
theorem witness_WordWrites : wordOffset 0x1000 = 0x1000 + 4 * 0 ∧ wordOffset 0x10FC = 0x1000 + 4 * 63 ∧
    63 < idle.msgcap.toNat / 4 ∧ 63 < (flying .hexenc).msgcap.toNat / 4 ∧ wordOffset 0x020 = 0x020 + 4 * 0 ∧
    wordOffset 0x03C = 0x020 + 4 * 7 := by decide

/-- AStepRunsTheCommand, first clause: a command word at the head of the program in IDLE. -/
theorem witness_AStepRunsTheCommand : ({ abc with program := [.write 0x000 0x00000102] } : State).busy = false ∧
    wordOffset 0x000 = 0 ∧ decode 0x00000102 = .ok (.sha256 true) := by decide

/-- AStepRunsTheCommand, second clause, with the program at its end and with no latency left; CommandRunsToItsResult;
InternalStateUnobservable and StepKeepsInvariant: the completion is a step. -/
theorem witness_completion_step : step (flying .hexenc) = .next (completion .hexenc (flying .hexenc)) ∧
    step { flying .hexenc with program := [.read 0x000] } =
      .next (completion .hexenc { flying .hexenc with program := [.read 0x000] }) ∧
    latchedInstr (flying .hexenc) = some .hexenc ∧ (flying .hexenc).busy = true ∧ HostEvent.reset ∉ (flying .hexenc).program := by
  refine ⟨rfl, rfl, by decide, rfl, by decide⟩

/-- AcceptanceOfEveryWord: each clause, with the code it gives: a legal word accepted, and codes 5, 1, 4 and 2. -/
theorem witness_AcceptanceOfEveryWord : abc.busy = false ∧ wordOffset 0x000 = 0 ∧ statusAfter 0x00000102 256 = 0x00000001 ∧
    statusAfter 0x00000000 3 = 0x00000052 ∧ statusAfter 0x00000002 3 = 0x00000012 ∧ statusAfter 0x00000102 257 = 0x00000042 ∧
    statusAfter 0x00020101 256 = 0x00000022 := by decide +kernel

/-- RejectionChangesNothingElse: a rejected word. -/
theorem witness_RejectionChangesNothingElse : nextHas (busWrite 0x000 0x00020101 abc) (fun t => t.err != 0) = true := by
  decide +kernel

/-- PassingCommandIsAccepted, OutputsDependOnInputsOnly and FacadeEqualsEngineThenHexenc: every command passes in an idle state, with LEN at MSG_BUF_BYTES. -/
theorem witness_PassesChecks :
    ({ abc with len := 256 } : State).busy = false ∧ PassesChecks (.digest true 1) { abc with len := 256 } ∧
    PassesChecks (.digest true 0) { abc with len := 256 } ∧ PassesChecks (.sha256 true) { abc with len := 256 } ∧
    PassesChecks (.sha3_256 true) { abc with len := 256 } ∧ PassesChecks .hexenc { abc with len := 0xFFFFFFFF } := by
  unfold PassesChecks
  decide

/-- Sha256EngineComputesTheFunction and Sha3EngineComputesTheFunction: the acceptances, with the cycles that make up one block
fully unrolled, and with UNROLL = 1. -/
theorem witness_engines : abc.busy = false ∧ abc.len.toNat ≤ abc.msgcap.toNat ∧
    exec (.sha256 true) abc = .next (acceptance (.sha256 true) abc) ∧
    exec (.digest true 0) abc = .next (acceptance (.digest true 0) abc) ∧
    exec (.sha3_256 true) abc = .next (acceptance (.sha3_256 true) abc) ∧
    exec (.digest true 1) abc = .next (acceptance (.digest true 1) abc) ∧
    64 * ((abc.len.toNat + 72) / 64) ≤ 64 * 1 ∧ 64 * ((abc.len.toNat + 72) / 64) ≤ 1 * 64 ∧
    24 * (abc.len.toNat / 136 + 1) ≤ 24 * 1 ∧ 24 * (abc.len.toNat / 136 + 1) ≤ 1 * 24 :=
  ⟨rfl, by decide, exec_idle _ rfl, exec_idle _ rfl, exec_idle _ rfl, exec_idle _ rfl, by decide, by decide, by decide, by decide⟩

/-- FailingCommandIsRejected: a command that fails each check. -/
theorem witness_FailingCommandIsRejected : abc.busy = false ∧ ¬ PassesChecks (.digest false 0) abc ∧
    ¬ PassesChecks (.digest true 0) { abc with len := 257 } ∧ ¬ PassesChecks (.digest true 2) abc ∧
    ¬ PassesChecks (.sha256 false) abc ∧ ¬ PassesChecks (.sha256 true) { abc with len := 257 } ∧
    ¬ PassesChecks (.sha3_256 false) abc ∧ ¬ PassesChecks (.sha3_256 true) { abc with len := 257 } := by
  unfold PassesChecks
  decide

/-- DigestCompletes, EngineCommandsComplete, HexencCompletes and CompletionStep: the latch of each command in flight, with the
host's program at its end. -/
theorem witness_completes :
    ((flying (.digest true 0)).busy = true ∧ (flying (.digest true 0)).opL = 0x1 ∧ (flying (.digest true 0)).algL = 0x00) ∧
    ((flying (.digest true 1)).busy = true ∧ (flying (.digest true 1)).opL = 0x1 ∧ (flying (.digest true 1)).algL = 0x01) ∧
    ((flying (.sha256 true)).busy = true ∧ (flying (.sha256 true)).opL = 0x2) ∧
    ((flying (.sha3_256 true)).busy = true ∧ (flying (.sha3_256 true)).opL = 0x3) ∧
    ((flying .hexenc).busy = true ∧ (flying .hexenc).opL = 0x4) ∧ (flying .hexenc).program = [] := by decide

/-- OtherCommandTurnedAway: another command than the one in flight. -/
theorem witness_OtherCommandTurnedAway : (flying .hexenc).busy = true ∧ latchedInstr (flying .hexenc) ≠ some (.sha256 true) := by
  decide

/-- BusyChangesOnlyByRule: a step that sets BUSY, and steps that clear it. -/
theorem witness_BusyChangesOnlyByRule :
    nextHas (step { abc with program := [.write 0x000 0x00000004] }) (fun t => t.busy) = true ∧
    nextHas (step (flying .hexenc)) (fun t => !t.busy) = true ∧
    nextHas (step (waiting .hexenc .reset)) (fun t => !t.busy) = true := by decide +kernel

/-- OutputsChangeOnlyByRule: steps that change HEX and DIGEST. -/
theorem witness_OutputsChangeOnlyByRule :
    nextHas (step (flying .hexenc)) (fun t => t.hex != (flying .hexenc).hex) = true ∧
    nextHas (step { abc with program := [.write 0x020 1] }) (fun t => t.digest != abc.digest) = true := by decide +kernel

/-- The invariant holds in states with a command in flight, so StepKeepsInvariant, NoStepStops, CommandRunsToItsResult and
InternalStateUnobservable are about states that run. -/
theorem witness_Inv : (flying .hexenc).Inv ∧ (flying (.digest true 1)).Inv :=
  ⟨flying_inv .hexenc (by decide) (by decide) (by decide) (by decide),
   flying_inv (.digest true 1) (by decide) (by decide) (by decide) (by decide)⟩

/-- CallReturnsItsAnswer: an idle state that satisfies the invariant, a message that fills the buffer, and the tags at the ends of
each clause. -/
theorem witness_CallReturnsItsAnswer : abc.Inv ∧ abc.busy = false ∧
    (List.replicate 256 (0x61 : Byte)).length ≤ abc.msgcap.toNat ∧ (1 < 256 ∧ 2 ≠ 0 ∧ 2 ≠ 1 ∧ 255 < 256) := by
  have hcap : capAdmissible (256 : Word).toNat := by
    unfold capAdmissible
    decide
  have hbusy : abc.busy ≠ true := by decide
  have hfresh : freshLegal abc := ⟨rfl, rfl, rfl⟩
  exact ⟨⟨hcap, .inl rfl, .inl rfl, ⟨rfl, rfl⟩, fun h => absurd h hbusy, fun _ _ => hfresh⟩, rfl, by rw [List.length_replicate]; decide,
    by decide⟩

/-- InternalStateUnobservable: two states that look the same and differ inside. -/
theorem witness_InternalStateUnobservable :
    VisiblyEqual (flying .hexenc) { flying .hexenc with sha := Sha256Regs.zero.start [] } ∧
    SameSchedule (flying .hexenc) { flying .hexenc with sha := Sha256Regs.zero.start [] } ∧
    flying .hexenc ≠ { flying .hexenc with sha := Sha256Regs.zero.start [] } ∧
    ({ flying .hexenc with sha := Sha256Regs.zero.start [] } : State).Inv := by
  refine ⟨⟨rfl, rfl, rfl, rfl, rfl, rfl, rfl, rfl, rfl, fun _ => rfl, rfl, rfl⟩, ⟨rfl, rfl, rfl, rfl⟩, fun h => ?_, ?_⟩
  · have e := congrArg (fun s : State => s.sha.hash.a) h
    revert e
    decide
  · exact flying_inv .hexenc (by decide) (by decide) (by decide) (by decide)

/-- OutputsDependOnInputsOnly: two states that agree on the inputs and differ elsewhere. -/
theorem witness_OutputsDependOnInputsOnly : abc.len = ({ abc with cmd := 7, wign := true } : State).len ∧
    (∀ a, a < abc.len.toNat → msgByte abc a = msgByte { abc with cmd := 7, wign := true } a) ∧
    abc.digest = ({ abc with cmd := 7, wign := true } : State).digest ∧ abc ≠ { abc with cmd := 7, wign := true } :=
  ⟨rfl, fun _ _ => rfl, rfl, fun h => by
    have e := congrArg State.wign h
    cases e⟩

/-- ResetOverridesEverything and PollRepeatsUntilValue: a reset and a POLL at the head of the program. -/
theorem witness_heads : (waiting .hexenc .reset).program = [.reset] ∧
    (waiting .hexenc HostEvent.pollIdle).program = [.poll 0x008 0x00000001 0x0] ∧
    (waiting .hexenc HostEvent.pollIdle).wait ≠ 0 ∧ ({ abc with program := [HostEvent.pollIdle] } : State).busy = false := by
  decide

/-- InstancesAreIndependent: the second of two instances takes a step. -/
theorem witness_InstancesAreIndependent :
    System.stepAt [⟨0x4000, abc⟩, ⟨0x8000, waiting .hexenc (.write offLen 9)⟩] 1 =
      some (.next [⟨0x4000, abc⟩,
        ⟨0x8000, { waiting .hexenc (.write offLen 9) with program := [], wait := 1, wign := true }⟩]) := by rfl

/-- Pad256Shape and Pad3Shape: lengths on both sides of a block's end. -/
theorem witness_lengths : 8 * (List.replicate 55 (0x61 : Byte)).length < 2 ^ 64 ∧
    (List.replicate 135 (0x61 : Byte)).length % 136 = 135 ∧ (List.replicate 136 (0x61 : Byte)).length % 136 ≠ 135 := by decide

/-- ScheduleRecurrence: a block has 16 words. -/
theorem witness_ScheduleRecurrence : (blockWords (block256 (pad256 []) 0)).length = 16 := by decide

end Sys2Proof.Tests
end

/-! Proofs of the statements of 10_state.md: the MSGCAP constant (R31), the STATUS layout (R26), and that no internal
state is observable (R37). -/

namespace Sys2Proof.Machine

/-! ### Where STATUS and MSGCAP lie, and what they read as -/

/-- The word offset of STATUS (20_memory.md R51). -/
theorem targetIn_status (s : State) {off : Word} (h : wordOffset off = 0x008) : targetIn s off = .status := by
  simp [targetIn, target, h]

/-- The word offset of MSGCAP (20_memory.md R51). -/
theorem targetIn_msgcap (s : State) {off : Word} (h : wordOffset off = 0x00C) : targetIn s off = .msgcap := by
  simp [targetIn, target, h]

theorem busRead_status (s : State) {off : Word} (h : wordOffset off = 0x008) : busRead s off = statusWord s := by
  simp [busRead, targetIn_status s h]

theorem busWrite_status (s : State) {off : Word} (data : Word) (h : wordOffset off = 0x008) :
    busWrite off data s = .next (writeStatus data s) := by
  simp [busWrite, targetIn_status s h]

theorem busRead_msgcap (s : State) {off : Word} (h : wordOffset off = 0x00C) : busRead s off = s.msgcap := by
  simp [busRead, targetIn_msgcap s h]

theorem busWrite_msgcap (s : State) {off : Word} (data : Word) (h : wordOffset off = 0x00C) :
    busWrite off data s = .next s := by
  simp [busWrite, targetIn_msgcap s h]

/-! ### MSGCAP is a constant (10_state.md R31) -/

/-- No bus write changes MSGCAP, at whatever offset and in either phase. -/
theorem busWrite_keeps_msgcap {off data : Word} {s t : State} (h : busWrite off data s = .next t) :
    t.msgcap = s.msgcap := by
  rcases busWrite_cases off data s with
    ⟨_, hw⟩ | hw | ⟨_, hw⟩ | ⟨_, _, _, _, hw⟩ | ⟨_, _, i, _, hw⟩ | ⟨_, _, hw⟩ | ⟨_, _, _, hw⟩ | ⟨_, _, _, hw⟩ <;>
    rw [hw] at h <;> cases h
  · rfl
  · rfl
  · exact writeStatus_msgcap data s
  · rfl
  · obtain ⟨_, _, _, hcap, _⟩ := acceptance_fields i { s with cmd := data }
    exact hcap
  · rfl
  · rfl
  · rfl

/-- No step of any kind changes MSGCAP. -/
theorem step_keeps_msgcap {s t : State} (h : step s = .next t) : t.msgcap = s.msgcap := by
  rcases step_next h with ⟨rest, _, rfl⟩ | ⟨_, i, _, rfl⟩ | ⟨_, _, rfl⟩ | ⟨_, off, data, rest, _, hw⟩ |
    ⟨_, ev, rest, v, program, _, _, rfl⟩
  · rfl
  · obtain ⟨_, _, _, hcap, _⟩ := completion_fields i s
    exact hcap
  · rfl
  · exact (busWrite_keeps_msgcap hw).trans (takeEvent_msgcap rest s)
  · rfl

/-- Settles O9: the map sends the offset to MSGCAP, and every case of a step keeps the field. -/
theorem msgcapIsConstant : Obligations.MsgcapIsConstant :=
  ⟨fun s _ data h => ⟨busRead_msgcap s h, busWrite_msgcap s data h⟩, rfl, fun _ _ => step_keeps_msgcap⟩

/-! ### The layout of STATUS (10_state.md R26) -/

/-- A one-bit field as a word has its bit at position 0 only. -/
@[simp] theorem getElem_bitWord (b : Bool) {i : Nat} (hi : i < 32) : (bitWord b)[i] = (decide (i = 0) && b) := by
  cases b <;> simp [bitWord, BitVec.getElem_one]

/-- STATUS bit by bit. -/
theorem getLsbD_statusWord (s : State) {i : Nat} (hi : i < 32) : (statusWord s).getLsbD i =
    if i = 0 then s.busy else if i = 1 then s.done else if i = 2 then s.wign
    else if 4 ≤ i ∧ i < 8 then s.err.getLsbD (i - 4) else false := by
  by_cases hlow : i < 4
  · interval_cases i <;> simp [statusWord]
  · have hflags : i ≠ 0 ∧ i ≠ 1 ∧ i ≠ 2 ∧ i - 1 ≠ 0 ∧ i - 2 ≠ 0 := by omega
    have herr : (statusWord s).getLsbD i = s.err.getLsbD (i - 4) := by
      simp [statusWord, hi, hlow, hflags]
    by_cases hfield : i < 8
    · simp [herr, hflags, hfield, Nat.le_of_not_lt hlow]
    · simp [herr, hflags, hfield, BitVec.getLsbD_of_ge _ _ (show 4 ≤ i - 4 by omega)]

/-- STATUS reads 0 after reset (10_state.md R42). -/
theorem statusWord_reset : statusWord State.reset = 0 := by decide

/-- Settles O10: the word is the or of its shifted fields, and the write is `writeStatus` in either phase. -/
theorem statusLayoutAndWrite : Obligations.StatusLayoutAndWrite := by
  refine ⟨fun s off h => ⟨fun i hi => ?_, fun data => busWrite_status s data h⟩, fun off h => ?_⟩
  · rw [busRead_status s h, getLsbD_statusWord s hi]
  · rw [busRead_status _ h, statusWord_reset]

/-! ### The visible part of a state -/

/-- What the host and the schedule see of a state, MSG's bytes apart: the internal state (10_state.md R35 to R39) and the list
that holds MSG are blanked. -/
def visiblePart (s : State) : State :=
  { s with msg := [], opL := 0, algL := 0, lenL := 0, sha := Sha256Regs.zero, keccak := KeccakRegs.zero }

/-- Two states with the same visible part and the same bytes of MSG. -/
def Alike (s t : State) : Prop := visiblePart s = visiblePart t ∧ ∀ i, msgByte s i = msgByte t i

/-- `Alike` is what the statement asks for: the same view under the same schedule. -/
theorem alike_iff (s t : State) : Alike s t ↔ VisiblyEqual s t ∧ SameSchedule s t := by
  unfold Alike visiblePart VisiblyEqual SameSchedule
  simp only [State.mk.injEq, true_and]
  tauto

/-- The visible effect of `f` is computed from the visible part alone, and `f` leaves MSG. -/
def ActsOnVisible (f : State → State) : Prop :=
  (∀ s, visiblePart (f s) = visiblePart (f (visiblePart s))) ∧ ∀ s i, msgByte (f s) i = msgByte s i

/-- Such an operation takes states that look alike to states that look alike. -/
theorem ActsOnVisible.keeps_alike {f : State → State} (hf : ActsOnVisible f) {s t : State} (h : Alike s t) :
    Alike (f s) (f t) := by
  obtain ⟨hview, hmsg⟩ := hf
  refine ⟨?_, fun i => by rw [hmsg, hmsg, h.2]⟩
  rw [hview s, hview t, h.1]

/-! ### Operations that act on the visible part -/

theorem setWign_actsOnVisible : ActsOnVisible setWign := ⟨fun _ => rfl, fun _ _ => rfl⟩

theorem writeStatus_actsOnVisible (data : Word) : ActsOnVisible (writeStatus data) := by
  unfold writeStatus
  split <;> exact ⟨fun _ => rfl, fun _ _ => rfl⟩

theorem setLen_actsOnVisible (data : Word) : ActsOnVisible fun s => { s with len := data } :=
  ⟨fun _ => rfl, fun _ _ => rfl⟩

theorem setCmd_actsOnVisible (data : Word) : ActsOnVisible fun s => { s with cmd := data } :=
  ⟨fun _ => rfl, fun _ _ => rfl⟩

theorem setDigestWord_actsOnVisible (k : Nat) (data : Word) :
    ActsOnVisible fun s => { s with digest := putDigestWord s.digest k data } :=
  ⟨fun _ => rfl, fun _ _ => rfl⟩

theorem rejectWord_actsOnVisible (c : Word) (e : CmdError) : ActsOnVisible (rejectWord c e) :=
  ⟨fun _ => rfl, fun _ _ => rfl⟩

theorem putDigest_actsOnVisible (d : Digest) : ActsOnVisible (putDigest d) := ⟨fun _ => rfl, fun _ _ => rfl⟩

theorem putHex_actsOnVisible (d : Digest) : ActsOnVisible (putHex d) := ⟨fun _ => rfl, fun _ _ => rfl⟩

theorem finishCommand_actsOnVisible : ActsOnVisible finishCommand := ⟨fun _ => rfl, fun _ _ => rfl⟩

theorem takeEvent_actsOnVisible (rest : List HostEvent) : ActsOnVisible (takeEvent rest) :=
  ⟨fun _ => rfl, fun _ _ => rfl⟩

theorem returnRead_actsOnVisible (v : Word) : ActsOnVisible (returnRead v) := ⟨fun _ => rfl, fun _ _ => rfl⟩

theorem setProgram_actsOnVisible (program : List HostEvent) : ActsOnVisible fun s => { s with program := program } :=
  ⟨fun _ => rfl, fun _ _ => rfl⟩

/-- The checks of a command read no internal state. -/
theorem commandError_visiblePart (i : Instr) (s : State) : commandError i (visiblePart s) = commandError i s := by
  cases i <;> rfl

/-- Starting a command shows the flags and the schedule only: latch and engines are hidden. -/
theorem visiblePart_started (i : Instr) (s : State) :
    visiblePart (startCommand (beginEngine i (latch (opOf i) (algOf i) s))) = startCommand (visiblePart s) := by
  obtain ⟨sha, keccak, h⟩ := beginEngine_frame i (latch (opOf i) (algOf i) s)
  rw [h]
  rfl

/-- An acceptance answers by checks that read no internal state (44_dispatch.md R223), and what it writes besides the flags is
the latch and the engines. -/
theorem acceptance_actsOnVisible (i : Instr) : ActsOnVisible (acceptance i) := by
  refine ⟨fun s => ?_, fun s => ?_⟩
  · unfold acceptance
    rw [commandError_visiblePart]
    cases commandError i s with
    | some e => rfl
    | none => simp only [visiblePart_started]; rfl
  · obtain ⟨_, _, _, _, _, _, hmsg, hepoch, _⟩ := acceptance_fields i s
    exact msgByte_congr hmsg hepoch

/-! ### What looks alike reads alike -/

section
variable {s t : State} (h : Alike s t)
include h

/-- What is computed from the visible part alone is the same in both. -/
theorem Alike.eq_of_visible {α : Type} (g : State → α) (hg : ∀ u, g u = g (visiblePart u)) : g s = g t := by
  rw [hg s, hg t, h.1]

theorem Alike.busy_eq : s.busy = t.busy := h.eq_of_visible State.busy fun _ => rfl
theorem Alike.program_eq : s.program = t.program := h.eq_of_visible State.program fun _ => rfl

/-- An offset addresses the same register in both. -/
theorem Alike.targetIn_eq (off : Word) : targetIn s off = targetIn t off :=
  h.eq_of_visible (targetIn · off) fun _ => rfl

/-- It is the engine's turn in both or in neither. -/
theorem Alike.engineTurn_eq : engineTurn s = engineTurn t := h.eq_of_visible engineTurn fun _ => rfl

/-- Every offset reads the same (20_memory.md R58). -/
theorem Alike.busRead_eq (off : Word) : busRead s off = busRead t off := by
  unfold busRead
  rw [h.targetIn_eq off]
  cases targetIn t off with
  | cmd => exact h.eq_of_visible State.cmd fun _ => rfl
  | len => exact h.eq_of_visible State.len fun _ => rfl
  | status => exact h.eq_of_visible statusWord fun _ => rfl
  | msgcap => exact h.eq_of_visible State.msgcap fun _ => rfl
  | digest k => exact h.eq_of_visible (digestWord · k) fun _ => rfl
  | hex k => exact h.eq_of_visible (hexWord · k) fun _ => rfl
  | msg k => simp only [msgWord, h.2]
  | unmapped => rfl

/-- Reset draws the same MSG in both (10_state.md R42). -/
theorem Alike.resetBlock : Alike (resetBlock s) (resetBlock t) := by
  have hepoch : s.epoch = t.epoch := h.eq_of_visible State.epoch fun _ => rfl
  exact ⟨h.eq_of_visible (fun u => visiblePart (Machine.resetBlock u)) fun _ => rfl,
    msgByte_congr rfl (congrArg (· + 1) hepoch)⟩

/-- A word written to MSG reads the same in both, and so does every other byte. -/
theorem Alike.writeMsgWord (k : Nat) (data : Word) :
    Alike { s with msg := Memory.writeBytes s.msg (4 * k) (le32Bytes data) }
      { t with msg := Memory.writeBytes t.msg (4 * k) (le32Bytes data) } :=
  ⟨h.1, fun a => by rw [msgByte_writeWord, msgByte_writeWord, h.2]⟩

end

/-! ### Outcomes that look alike -/

/-- If the first outcome is a next state, so is the second, and the two states look alike. -/
def OutcomesAlike (o o' : StepOutcome) : Prop := ∀ s', o = .next s' → ∃ t', o' = .next t' ∧ Alike s' t'

theorem OutcomesAlike.next {s t : State} (h : Alike s t) : OutcomesAlike (.next s) (.next t) := by
  rintro s' ⟨⟩
  exact ⟨t, rfl, h⟩

/-- A write that BUSY turns away does so in both states. -/
theorem Alike.writeIfIdle {f : State → State} (hf : ∀ {s t}, Alike s t → Alike (f s) (f t)) {s t : State} (h : Alike s t) :
    Alike (writeIfIdle f s) (writeIfIdle f t) := by
  unfold Machine.writeIfIdle
  rw [h.busy_eq]
  split
  · exact setWign_actsOnVisible.keeps_alike h
  · exact hf h

/-- In IDLE a word is rejected in both, or its command is accepted in both (44_dispatch.md R222). -/
theorem accept_alike (c : Word) {s t : State} (h : Alike s t) (hb : t.busy = false) :
    OutcomesAlike (accept c s) (accept c t) := by
  unfold accept
  cases decode c with
  | error e => exact .next ((rejectWord_actsOnVisible c e).keeps_alike h)
  | ok i =>
    simp only [exec_idle i hb, exec_idle i (h.busy_eq.trans hb)]
    exact .next ((acceptance_actsOnVisible i).keeps_alike h)

/-- A word written to CMD is dropped in both or stored and accepted in both (20_memory.md R61). -/
theorem writeCmd_alike (data : Word) {s t : State} (h : Alike s t) :
    OutcomesAlike (writeCmd data s) (writeCmd data t) := by
  unfold writeCmd
  by_cases hb : t.busy = true
  · rw [if_pos hb, if_pos (h.busy_eq.trans hb)]
    exact .next (setWign_actsOnVisible.keeps_alike h)
  · rw [if_neg hb, if_neg (h.busy_eq ▸ hb)]
    exact accept_alike data ((setCmd_actsOnVisible data).keeps_alike h) (by simpa using hb)

/-- A bus write has outcomes that look alike, at every offset (20_memory.md R60). -/
theorem busWrite_alike (off data : Word) {s t : State} (h : Alike s t) :
    OutcomesAlike (busWrite off data s) (busWrite off data t) := by
  unfold busWrite
  rw [h.targetIn_eq off]
  cases targetIn t off with
  | cmd => exact writeCmd_alike data h
  | len => exact .next (h.writeIfIdle (setLen_actsOnVisible data).keeps_alike)
  | status => exact .next ((writeStatus_actsOnVisible data).keeps_alike h)
  | digest k => exact .next (h.writeIfIdle (setDigestWord_actsOnVisible k data).keeps_alike)
  | msg k => exact .next (h.writeIfIdle fun hst => hst.writeMsgWord k data)
  | msgcap => exact .next h
  | hex k => exact .next h
  | unmapped => exact .next h

/-- An event of the host has outcomes that look alike. -/
theorem hostStep_alike (ev : HostEvent) {s t : State} (h : Alike s t) :
    OutcomesAlike (hostStep ev s) (hostStep ev t) := by
  cases ev with
  | read off =>
    simp only [hostStep, h.busRead_eq off]
    exact .next ((returnRead_actsOnVisible _).keeps_alike h)
  | write off data => exact busWrite_alike off data h
  | poll off mask value =>
    have hread : Alike (returnRead (busRead t off) s) (returnRead (busRead t off) t) :=
      (returnRead_actsOnVisible _).keeps_alike h
    simp only [hostStep, h.busRead_eq off, h.program_eq]
    split
    · exact .next hread
    · exact .next ((setProgram_actsOnVisible _).keeps_alike hread)
  | reset => exact .next h.resetBlock

/-! ### The completion: the invariant ties the latch to what is visible -/

/-- While BUSY = 1, OP_L, ALG_L and LEN_L are those of CMD and LEN (10_state.md R36, R43). -/
theorem State.Inv.latch_eq {s : State} (hs : s.Inv) (hb : s.busy = true) :
    s.opL = fieldOp s.cmd ∧ s.algL = fieldAlg s.cmd ∧ s.lenL = s.len := by
  obtain ⟨_, _, _, _, hbusy, _⟩ := hs
  obtain ⟨_, _, hop, halg, hlen, _⟩ := hbusy hb
  exact ⟨hop, halg, hlen⟩

section
variable {s t : State} (h : Alike s t)
include h

/-- Invariant states in flight that look alike have the same command and the same message in flight. -/
theorem Alike.inFlight_eq (hs : s.Inv) (ht : t.Inv) (hb : s.busy = true) :
    latchedInstr s = latchedInstr t ∧ message s = message t := by
  obtain ⟨hops, halgs, hlens⟩ := hs.latch_eq hb
  obtain ⟨hopt, halgt, hlent⟩ := ht.latch_eq (h.busy_eq ▸ hb)
  have hcmd : s.cmd = t.cmd := h.eq_of_visible State.cmd fun _ => rfl
  have hlen : s.len = t.len := h.eq_of_visible State.len fun _ => rfl
  exact ⟨latchedInstr_congr (by rw [hops, hopt, hcmd]) (by rw [halgs, halgt, hcmd]),
    message_congr (by rw [hlens, hlent, hlen]) fun i _ => h.2 i⟩

/-- On the same message, a command's completion leaves states that look alike: what it discards is hidden. -/
theorem Alike.completion (i : Instr) (hm : message s = message t) : Alike (completion i s) (completion i t) := by
  have hdigest : s.digest = t.digest := h.eq_of_visible State.digest fun _ => rfl
  have withDigest (d : Digest) : Alike (putDigest d s) (putDigest d t) := (putDigest_actsOnVisible d).keeps_alike h
  cases i with
  | digest srcv tag =>
    simp only [Machine.completion, completeDigest, hm]
    exact finishCommand_actsOnVisible.keeps_alike ((putHex_actsOnVisible _).keeps_alike (withDigest _))
  | sha256 srcv =>
    simp only [Machine.completion, completeSha256, hm]
    exact finishCommand_actsOnVisible.keeps_alike (withDigest _)
  | sha3_256 srcv =>
    simp only [Machine.completion, completeSha3_256, hm]
    exact finishCommand_actsOnVisible.keeps_alike (withDigest _)
  | hexenc =>
    simp only [Machine.completion, completeHexenc, hdigest]
    exact finishCommand_actsOnVisible.keeps_alike ((putHex_actsOnVisible _).keeps_alike h)

/-- The engine's turn has outcomes that look alike, from invariant states. -/
theorem Alike.engineStep (hs : s.Inv) (ht : t.Inv) (hb : s.busy = true) :
    OutcomesAlike (engineStep s) (engineStep t) := by
  obtain ⟨hlatch, hm⟩ := h.inFlight_eq hs ht hb
  unfold Machine.engineStep
  rw [hlatch]
  cases hi : latchedInstr t with
  | none => rintro s' ⟨⟩
  | some i =>
    simp only [exec_inFlight i hb (hlatch.trans hi), exec_inFlight i (h.busy_eq ▸ hb) hi]
    exact .next (h.completion i hm)

/-- A step has outcomes that look alike, from invariant states. -/
theorem Alike.step (hs : s.Inv) (ht : t.Inv) : OutcomesAlike (step s) (step t) := by
  have hengine (hturn : engineTurn t = true) : OutcomesAlike (Machine.engineStep s) (Machine.engineStep t) :=
    h.engineStep hs ht (h.busy_eq.trans (engineTurn_busy hturn))
  have hhost (ev : HostEvent) (rest : List HostEvent) :
      OutcomesAlike (hostStep ev (takeEvent rest s)) (hostStep ev (takeEvent rest t)) :=
    hostStep_alike ev ((takeEvent_actsOnVisible rest).keeps_alike h)
  unfold Machine.step agentStep
  rw [h.program_eq, h.engineTurn_eq]
  split
  · exact .next ((setProgram_actsOnVisible _).keeps_alike h).resetBlock
  · split
    · exact hengine ‹_›
    · exact .next h
  · split
    · exact hengine ‹_›
    · exact hhost _ _

end

/-- Settles O33: states that look alike have the same visible part and the same bytes of MSG, every operation computes what the
host sees from those, and the one that reads the latch, the completion, finds there what CMD and LEN say. -/
theorem internalStateUnobservable : Obligations.InternalStateUnobservable := by
  intro s t s' hs ht hview hsched hstep
  obtain ⟨t', ht', halike⟩ := ((alike_iff s t).2 ⟨hview, hsched⟩).step hs ht s' hstep
  exact ⟨t', ht', (alike_iff s' t').1 halike⟩

end Sys2Proof.Machine

/-! Proofs of the statements of 20_memory.md: what a bus read returns (R56, R58), unmapped words (R52), and the writes of CMD,
LEN, DIGEST, MSG, MSGCAP and HEX with their frames (R61 to R66). -/

namespace Sys2Proof.Machine

/-! ### Where LEN and the unmapped words lie -/

/-- The word offset of LEN (20_memory.md R51). -/
theorem targetIn_len (s : State) {off : Word} (h : wordOffset off = 0x004) : targetIn s off = .len := by
  simp [targetIn, target, h]

/-- A word outside the four registers, outside DIGEST and HEX and outside the buffer is unmapped (20_memory.md R51, R52). -/
theorem targetIn_unmapped (s : State) {off : Word}
    (h : ¬(wordOffset off < 0x010 ∨ (0x020 ≤ wordOffset off ∧ wordOffset off < 0x084) ∨
      (0x1000 ≤ wordOffset off ∧ wordOffset off < 0x1000 + 4 * (s.msgcap.toNat / 4)))) :
    targetIn s off = .unmapped := by
  simp (disch := omega) only [targetIn, target, if_neg]

/-- The offset counts by its aligned word alone (20_memory.md R56). -/
theorem targetIn_congr (s : State) {off off' : Word} (h : off &&& ~~~(3 : Word) = off' &&& ~~~(3 : Word)) :
    targetIn s off = targetIn s off' := by
  unfold targetIn target wordOffset
  rw [h]

theorem busRead_congr (s : State) {off off' : Word} (h : targetIn s off = targetIn s off') :
    busRead s off = busRead s off' := by
  unfold busRead
  rw [h]

theorem busWrite_congr (s : State) {off off' : Word} (data : Word) (h : targetIn s off = targetIn s off') :
    busWrite off data s = busWrite off' data s := by
  unfold busWrite
  rw [h]

/-! ### What each word reads as (20_memory.md R58) -/

/-- Below the terminator a byte of HEX is a stored character. -/
theorem hexByte_of_lt (s : State) {j : Nat} (hj : j < 64) : hexByte s j = nth s.hex j := if_pos hj

theorem hexWord_of_lt (s : State) {k : Nat} (hk : k < 16) : hexWord s k =
    le32 (nth s.hex (4 * k)) (nth s.hex (4 * k + 1)) (nth s.hex (4 * k + 2)) (nth s.hex (4 * k + 3)) := by
  simp (disch := omega) only [hexWord, hexByte_of_lt]

/-- The terminator's word is the constant 0 (43_hex_encoder.md R203). -/
theorem hexWord_terminator (s : State) : hexWord s 16 = 0 := by
  simp [hexWord, hexByte, le32]

theorem busRead_cmd (s : State) {off : Word} (h : wordOffset off = 0x000) : busRead s off = s.cmd := by
  simp [busRead, targetIn_cmd.2 h]

theorem busRead_len (s : State) {off : Word} (h : wordOffset off = 0x004) : busRead s off = s.len := by
  simp [busRead, targetIn_len s h]

theorem busRead_digest (s : State) {off : Word} {k : Nat} (hk : k < 8) (h : wordOffset off = 0x020 + 4 * k) :
    busRead s off = digestWord s k := by
  simp [busRead, targetIn_digest hk h]

theorem busRead_hex (s : State) {off : Word} {k : Nat} (hk : k < 17) (h : wordOffset off = 0x040 + 4 * k) :
    busRead s off = hexWord s k := by
  simp [busRead, targetIn_hex hk h]

theorem busRead_msg (s : State) {off : Word} {k : Nat} (hk : k < s.msgcap.toNat / 4)
    (h : wordOffset off = 0x1000 + 4 * k) : busRead s off = msgWord s k := by
  simp [busRead, targetIn_msg hk h]

theorem busRead_unmapped {s : State} {off : Word} (h : targetIn s off = .unmapped) : busRead s off = 0 := by
  simp [busRead, h]

/-- Settles O6: one lemma for each entry of the address map, and a host read is `returnRead` of what it gives. -/
theorem busReadByOffset : Obligations.BusReadByOffset := by
  intro s off
  refine ⟨busRead_cmd s, busRead_len s, fun h => ?status, busRead_msgcap s, fun k hk h => ?digest, fun k hk h => ?hex,
    fun h => ?terminator, fun k hk h => ?msg, fun h => busRead_unmapped (targetIn_unmapped s h), rfl⟩
  case status => exact busRead_status s h
  case digest => exact busRead_digest s hk h
  case hex => rw [busRead_hex s (by omega) h, hexWord_of_lt s hk]
  case terminator => rw [busRead_hex s (k := 16) (by decide) h, hexWord_terminator]
  case msg => exact busRead_msg s hk h

/-! ### What each write does -/

theorem writeIfIdle_busy (f : State → State) {s : State} (hb : s.busy = true) : writeIfIdle f s = setWign s := if_pos hb

theorem writeIfIdle_idle (f : State → State) {s : State} (hb : s.busy = false) : writeIfIdle f s = f s := by
  simp [writeIfIdle, hb]

theorem busWrite_cmd (s : State) {off : Word} (data : Word) (h : wordOffset off = 0x000) :
    busWrite off data s = writeCmd data s := by
  simp [busWrite, targetIn_cmd.2 h]

theorem busWrite_len (s : State) {off : Word} (data : Word) (h : wordOffset off = 0x004) :
    busWrite off data s = .next (writeLen data s) := by
  simp [busWrite, targetIn_len s h]

theorem busWrite_digest (s : State) {off : Word} {k : Nat} (data : Word) (hk : k < 8)
    (h : wordOffset off = 0x020 + 4 * k) : busWrite off data s = .next (writeDigest k data s) := by
  simp [busWrite, targetIn_digest hk h]

theorem busWrite_hex (s : State) {off : Word} {k : Nat} (data : Word) (hk : k < 17)
    (h : wordOffset off = 0x040 + 4 * k) : busWrite off data s = .next s := by
  simp [busWrite, targetIn_hex hk h]

theorem busWrite_msg (s : State) {off : Word} {k : Nat} (data : Word) (hk : k < s.msgcap.toNat / 4)
    (h : wordOffset off = 0x1000 + 4 * k) : busWrite off data s = .next (writeMsg k data s) := by
  simp [busWrite, targetIn_msg hk h]

theorem busWrite_unmapped {s : State} {off : Word} (data : Word) (h : targetIn s off = .unmapped) :
    busWrite off data s = .next s := by
  simp [busWrite, h]

/-- Settles O7: the three gaps of the address map are unmapped, and no write stops. -/
theorem unmappedAccess : Obligations.UnmappedAccess := by
  refine fun s off data => ⟨fun hgap => ?_, busWrite_next off data s⟩
  have hu : targetIn s off = .unmapped := targetIn_unmapped s (by omega)
  exact ⟨busRead_unmapped hu, busWrite_unmapped data hu⟩

/-- Byte `4k+i` of DIGEST after word `k` is put is byte `i` of the word (20_memory.md R65). -/
theorem nth_putDigestWord_same (d : Digest) {k i : Nat} (data : Word) (hk : k < 8) (hi : i < 4) :
    nth (putDigestWord d k data) (4 * k + i) = byteOf data i := by
  have hword : (4 * k + i) / 4 = k := by omega
  have hbyte : (4 * k + i) % 4 = i := by omega
  rw [nth_putDigestWord d k data (by omega), if_pos hword, hbyte]

/-- The bytes of the other words of DIGEST stay. -/
theorem nth_putDigestWord_other (d : Digest) {k a : Nat} (data : Word) (ha : a < 32) (hout : a < 4 * k ∨ 4 * k + 4 ≤ a) :
    nth (putDigestWord d k data) a = nth d a := by
  have hword : a / 4 ≠ k := by omega
  rw [nth_putDigestWord d k data ha, if_neg hword]

/-- Settles O13: the word's four bytes are the ones written to the buffer, and MSG is all that the write touches. -/
theorem msgWordWrite : Obligations.MsgWordWrite := by
  intro s off data k hk h
  rw [busWrite_msg s data hk h, writeMsg]
  refine ⟨fun hb => by rw [writeIfIdle_busy _ hb, setWign], fun hb => ?_⟩
  rw [writeIfIdle_idle _ hb]
  refine ⟨_, rfl, fun i hi => ?written, fun a hout => ?kept, rfl⟩
  case written => rw [msgByte_writeWord, if_pos (by omega), Nat.add_sub_cancel_left, byteOf]
  case kept => rw [msgByte_writeWord, if_neg (by omega)]

/-- Settles O14: the word's four bytes are the ones put into DIGEST, and DIGEST is all that the write touches. -/
theorem digestWordWrite : Obligations.DigestWordWrite := by
  intro s off data k hk h
  rw [busWrite_digest s data hk h, writeDigest]
  refine ⟨fun hb => by rw [writeIfIdle_busy _ hb, setWign], fun hb => ?_⟩
  rw [writeIfIdle_idle _ hb]
  exact ⟨_, rfl, fun i hi => nth_putDigestWord_same s.digest data hk hi,
    fun a ha hout => nth_putDigestWord_other s.digest data ha hout, rfl⟩

/-- Settles O16: an aligned offset from 0x040 to 0x080 is one of the 17 HEX words. -/
theorem outputRegistersIgnoreWrites : Obligations.OutputRegistersIgnoreWrites := by
  rintro s off data (hcap | ⟨hlo, hhi⟩)
  · exact busWrite_msgcap s data hcap
  · have haligned := wordOffset_mod off
    have hword : wordOffset off = 0x040 + 4 * ((wordOffset off - 0x040) / 4) := by omega
    exact busWrite_hex s data (by omega) hword

/-- Settles O8: both transactions reach the offset through the address map, which reads its aligned word. -/
theorem offsetLowBitsIgnored : Obligations.OffsetLowBitsIgnored := fun s off off' data h =>
  have htarget : targetIn s off = targetIn s off' := targetIn_congr s h
  ⟨busRead_congr s htarget, busWrite_congr s data htarget, busWrite_next off data s⟩

/-- Settles O11: the write is `writeCmd`, which splits on the phase. -/
theorem cmdWrite : Obligations.CmdWrite := by
  intro s off data h
  rw [busWrite_cmd s data h, writeCmd]
  exact ⟨fun hb => by rw [if_pos hb, setWign], fun hb => by rw [if_neg (by simp [hb])]⟩

/-- Settles O12: the write is `writeLen`, which splits on the phase and checks nothing. -/
theorem lenWrite : Obligations.LenWrite := by
  intro s off data h
  rw [busWrite_len s data h, writeLen]
  exact ⟨fun hb => by rw [writeIfIdle_busy _ hb, setWign], fun hb => by rw [writeIfIdle_idle _ hb]⟩

end Sys2Proof.Machine

/-! Proofs of the statements of 30_encoding.md: the pseudo-commands (R90), and which words are illegal and what writing one
does (R87). -/

namespace Sys2Proof

/-- Settles O1: the six words and what they decode to, by evaluation of the assembler and the decoder. -/
theorem pseudoCommandsAssemble : Obligations.PseudoCommandsAssemble := by
  unfold Obligations.PseudoCommandsAssemble
  decide

/-! ### A word is its six fields (30_encoding.md R81) -/

/-- Two words with the same field have the same bits there. -/
theorem getLsbD_eq_of_field_eq {c d : Word} {lo w : Nat} (h : c.extractLsb' lo w = d.extractLsb' lo w) {i : Nat}
    (hlo : lo ≤ i) (hhi : i < lo + w) : c.getLsbD i = d.getLsbD i := by
  have hw : i - lo < w := by omega
  have hbit := congrArg (·.getLsbD (i - lo)) h
  simpa [hw, Nat.add_sub_cancel' hlo] using hbit

/-- The fields cover the word. -/
theorem word_eq_iff_fields (c d : Word) : c = d ↔
    fieldOp c = fieldOp d ∧ fieldRsv0 c = fieldRsv0 d ∧ fieldSrcv c = fieldSrcv d ∧ fieldRsv1 c = fieldRsv1 d ∧
    fieldAlg c = fieldAlg d ∧ fieldRsv2 c = fieldRsv2 d := by
  refine ⟨fun h => by simp [h], fun ⟨hop, hrsv0, hsrcv, hrsv1, halg, hrsv2⟩ => BitVec.eq_of_getLsbD_eq fun i hi => ?_⟩
  have hwhere : i < 4 ∨ (4 ≤ i ∧ i < 8) ∨ i = 8 ∨ (9 ≤ i ∧ i < 16) ∨ (16 ≤ i ∧ i < 24) ∨ 24 ≤ i := by omega
  rcases hwhere with h | ⟨hlo, hhi⟩ | rfl | ⟨hlo, hhi⟩ | ⟨hlo, hhi⟩ | h
  · exact getLsbD_eq_of_field_eq hop (Nat.zero_le i) (by omega)
  · exact getLsbD_eq_of_field_eq hrsv0 hlo hhi
  · exact hsrcv
  · exact getLsbD_eq_of_field_eq hrsv1 hlo hhi
  · exact getLsbD_eq_of_field_eq halg hlo hhi
  · exact getLsbD_eq_of_field_eq hrsv2 h hi

/-! ### The rows of the opcode map, field by field (30_encoding.md R84) -/

/-- A row fixes the bits of each field that its mask selects there. -/
theorem OpRow.holds_iff_fields (r : OpRow) (c : Word) : r.holds c = true ↔
    fieldOp c &&& fieldOp r.mask = fieldOp r.pattern ∧ fieldRsv0 c &&& fieldRsv0 r.mask = fieldRsv0 r.pattern ∧
    (fieldSrcv c && fieldSrcv r.mask) = fieldSrcv r.pattern ∧ fieldRsv1 c &&& fieldRsv1 r.mask = fieldRsv1 r.pattern ∧
    fieldAlg c &&& fieldAlg r.mask = fieldAlg r.pattern ∧ fieldRsv2 c &&& fieldRsv2 r.mask = fieldRsv2 r.pattern := by
  rw [OpRow.holds, beq_iff_eq, word_eq_iff_fields]
  simp only [fieldOp, fieldRsv0, fieldSrcv, fieldRsv1, fieldAlg, fieldRsv2, BitVec.extractLsb'_and, BitVec.getLsbD_and]

/-- A mask of ones keeps a field of 4, of 7 or of 8 bits: `BitVec.and_allOnes` in the form in which `simp` evaluates the mask. -/
theorem and_ones4 (x : BitVec 4) : x &&& 0xF#4 = x := BitVec.and_allOnes
theorem and_ones7 (x : BitVec 7) : x &&& 0x7F#7 = x := BitVec.and_allOnes
theorem and_ones8 (x : BitVec 8) : x &&& 0xFF#8 = x := BitVec.and_allOnes

theorem rowDigest_holds_iff (c : Word) : rowDigest.holds c = true ↔
    fieldOp c = 1 ∧ fieldRsv0 c = 0 ∧ fieldRsv1 c = 0 ∧ fieldRsv2 c = 0 := by
  simp [OpRow.holds_iff_fields, rowDigest, fieldOp, fieldRsv0, fieldSrcv, fieldRsv1, fieldAlg, fieldRsv2,
    and_ones4, and_ones7, and_ones8]

theorem rowSha256_holds_iff (c : Word) : rowSha256.holds c = true ↔
    fieldOp c = 2 ∧ fieldRsv0 c = 0 ∧ fieldRsv1 c = 0 ∧ fieldAlg c = 0 ∧ fieldRsv2 c = 0 := by
  simp [OpRow.holds_iff_fields, rowSha256, fieldOp, fieldRsv0, fieldSrcv, fieldRsv1, fieldAlg, fieldRsv2,
    and_ones4, and_ones7, and_ones8]

theorem rowSha3_256_holds_iff (c : Word) : rowSha3_256.holds c = true ↔
    fieldOp c = 3 ∧ fieldRsv0 c = 0 ∧ fieldRsv1 c = 0 ∧ fieldAlg c = 0 ∧ fieldRsv2 c = 0 := by
  simp [OpRow.holds_iff_fields, rowSha3_256, fieldOp, fieldRsv0, fieldSrcv, fieldRsv1, fieldAlg, fieldRsv2,
    and_ones4, and_ones7, and_ones8]

theorem rowHexenc_holds_iff (c : Word) : rowHexenc.holds c = true ↔
    fieldOp c = 4 ∧ fieldRsv0 c = 0 ∧ fieldSrcv c = false ∧ fieldRsv1 c = 0 ∧ fieldAlg c = 0 ∧ fieldRsv2 c = 0 := by
  simp [OpRow.holds_iff_fields, rowHexenc, fieldOp, fieldRsv0, fieldSrcv, fieldRsv1, fieldAlg, fieldRsv2,
    and_ones4, and_ones7, and_ones8]

/-! ### The illegal words (30_encoding.md R87) -/

/-- A word that matches no row is illegal, and only such a word. -/
theorem decode_illegal_iff_rows (c : Word) : decode c = .error .illegalCommand ↔
    ¬ rowDigest.holds c = true ∧ ¬ rowSha256.holds c = true ∧ ¬ rowSha3_256.holds c = true ∧
    ¬ rowHexenc.holds c = true := by
  rcases decode_cases c with ⟨hr, hd⟩ | ⟨hr, hd⟩ | ⟨hr, hd⟩ | ⟨hr, hd⟩ | ⟨h1, h2, h3, h4, hd⟩
  · simp [hd, hr]
  · simp [hd, hr]
  · simp [hd, hr]
  · simp [hd, hr]
  · simp [hd, h1, h2, h3, h4]

/-- OP names no row, or one of the four (30_encoding.md R83). -/
theorem op_cases (op : BitVec 4) : op = 0 ∨ op = 1 ∨ op = 2 ∨ op = 3 ∨ op = 4 ∨
    (5 ≤ op.toNat ∧ op ≠ 1 ∧ op ≠ 2 ∧ op ≠ 3 ∧ op ≠ 4) := by
  decide +revert

/-- The list of R87: OP leaves at most one row to match, and its other fields decide. -/
theorem decode_illegal_iff_fields (c : Word) : decode c = .error .illegalCommand ↔
    fieldOp c = 0 ∨ 5 ≤ (fieldOp c).toNat ∨ fieldRsv0 c ≠ 0 ∨ fieldRsv1 c ≠ 0 ∨ fieldRsv2 c ≠ 0 ∨
    (fieldOp c ≠ 1 ∧ fieldAlg c ≠ 0) ∨ (fieldOp c = 4 ∧ fieldSrcv c = true) := by
  rw [decode_illegal_iff_rows, rowDigest_holds_iff, rowSha256_holds_iff, rowSha3_256_holds_iff, rowHexenc_holds_iff]
  obtain h | h | h | h | h | ⟨h, h1, h2, h3, h4⟩ := op_cases (fieldOp c)
  · exact iff_of_true (by simp [h]) (.inl h)
  · grind
  · grind
  · grind
  · grind
  · exact iff_of_true ⟨fun r => h1 r.1, fun r => h2 r.1, fun r => h3 r.1, fun r => h4 r.1⟩ (.inr (.inl h))

end Sys2Proof

namespace Sys2Proof.Machine

/-- Every word is a legal command or illegal (30_encoding.md R85). -/
theorem decode_ok_or_illegal (c : Word) : (∃ i, decode c = .ok i) ∨ decode c = .error .illegalCommand := by
  cases hd : decode c with
  | ok i => exact .inl ⟨i, rfl⟩
  | error e => exact .inr (by rw [decode_error hd])

/-- A word that does not decode, written to CMD in IDLE, is kept in CMD and rejected (20_memory.md R61). -/
theorem busWrite_cmd_rejected {c off : Word} {e : CmdError} {s : State} (hd : decode c = .error e)
    (hb : s.busy = false) (hoff : wordOffset off = 0) :
    busWrite off c s = .next (rejectWord c e { s with cmd := c }) := by
  simp [busWrite_cmd s c hoff, writeCmd, hb, accept, hd]

/-- Settles O2: the fields decide which words match no row, and writing such a word is the rejection with IllegalCommand. -/
theorem illegalWordsExactly : Obligations.IllegalWordsExactly := fun c =>
  ⟨decode_illegal_iff_fields c, decode_ok_or_illegal c, fun hd s _ hb hoff =>
    ⟨_, busWrite_cmd_rejected hd hb hoff, by simp [rejectWord, CmdError.code, hb]⟩⟩

end Sys2Proof.Machine

/-! Proofs of the statements of 41_sha256.md: the bit functions (R126 to R131), the message schedule (R132) and the digest
bytes (R137). -/

namespace Sys2Proof.Machine

/-! ### Choice and majority (41_sha256.md R126, R127) -/

/-- Each bit of `x` chooses the bit of `y` or of `z`. -/
theorem getLsbD_ch (x y z : Word) {i : Nat} (hi : i < 32) :
    (ch x y z).getLsbD i = if x.getLsbD i = true then y.getLsbD i else z.getLsbD i := by
  rw [ch, BitVec.getLsbD_xor, BitVec.getLsbD_and, BitVec.getLsbD_and, BitVec.getLsbD_not, decide_eq_true hi]
  cases x.getLsbD i <;> simp

/-- The formula of Maj on one bit of each operand. -/
theorem majBit_eq_atLeastTwo (a b c : Bool) :
    ((a && b) ^^ (a && c) ^^ (b && c)) = decide (2 ≤ a.toNat + b.toNat + c.toNat) := by
  decide +revert

theorem getLsbD_maj (x y z : Word) (i : Nat) :
    (maj x y z).getLsbD i = decide (2 ≤ (x.getLsbD i).toNat + (y.getLsbD i).toNat + (z.getLsbD i).toNat) := by
  rw [← majBit_eq_atLeastTwo]
  simp only [maj, BitVec.getLsbD_xor, BitVec.getLsbD_and]

theorem ch_zero (y z : Word) : ch 0#32 y z = z := by
  rw [ch, BitVec.zero_and, BitVec.zero_xor, BitVec.not_zero, BitVec.allOnes_and]

theorem ch_allOnes (y z : Word) : ch (BitVec.allOnes 32) y z = y := by
  rw [ch, BitVec.not_allOnes, BitVec.allOnes_and, BitVec.zero_and, BitVec.xor_zero]

/-- Settles O45: the formulas are the definitions, the bits are `getLsbD_ch` and `getLsbD_maj`, and the examples are
evaluated. -/
theorem chooseAndMajorityBits : Obligations.ChooseAndMajorityBits :=
  ⟨fun _ _ _ => ⟨rfl, rfl⟩, fun x y z i hi => ⟨getLsbD_ch x y z hi, getLsbD_maj x y z i⟩,
    fun y z => ⟨ch_zero y z, ch_allOnes y z⟩, by decide, by decide⟩

/-! ### Rotations and shifts, and the four sigma functions (00_scope.md R9, 41_sha256.md R128 to R131) -/

/-- Bit `i` of a right rotation comes from `n` places above, around the end: from the shift to the right where that place is
inside the word, and else from the shift to the left. -/
theorem getLsbD_rotr {N : Nat} (x : BitVec N) {n i : Nat} (hn : n < N) (hi : i < N) :
    (rotr x n).getLsbD i = x.getLsbD ((i + n) % N) := by
  rcases Nat.eq_zero_or_pos n with rfl | hpos
  · simp [rotr, Nat.mod_eq_of_lt hi]
  · rw [rotr, if_neg hpos.ne', BitVec.getLsbD_or, BitVec.getLsbD_ushiftRight, BitVec.getLsbD_shiftLeft]
    by_cases hin : i + n < N
    · have hleft : i < N - n := by omega
      simp [Nat.mod_eq_of_lt hin, hleft, Nat.add_comm n i]
    · have hplace : (i + n) % N = i - (N - n) := by
        rw [Nat.mod_eq_sub_mod (by omega), Nat.mod_eq_of_lt (by omega)]
        omega
      have hright : x.getLsbD (n + i) = false := BitVec.getLsbD_of_ge x _ (by omega)
      have hleft : ¬ i < N - n := by omega
      simp [hplace, hright, hleft, hi]

/-- Bit `i` of a logical shift to the right is 0 where its source lies past the top. -/
theorem getLsbD_shr {N : Nat} (x : BitVec N) (n i : Nat) :
    (shr x n).getLsbD i = (decide (i + n < N) && x.getLsbD (i + n)) := by
  rw [shr, BitVec.getLsbD_ushiftRight, Nat.add_comm n i]
  by_cases hin : i + n < N
  · simp [hin]
  · simp [hin, BitVec.getLsbD_of_ge x (i + n) (Nat.le_of_not_lt hin)]

theorem getLsbD_bigSigma0 (x : Word) {i : Nat} (hi : i < 32) : (bigSigma0 x).getLsbD i =
    (x.getLsbD ((i + 2) % 32) ^^ x.getLsbD ((i + 13) % 32) ^^ x.getLsbD ((i + 22) % 32)) := by
  simp only [bigSigma0, BitVec.getLsbD_xor, getLsbD_rotr, hi, Nat.reduceLT]

theorem getLsbD_bigSigma1 (x : Word) {i : Nat} (hi : i < 32) : (bigSigma1 x).getLsbD i =
    (x.getLsbD ((i + 6) % 32) ^^ x.getLsbD ((i + 11) % 32) ^^ x.getLsbD ((i + 25) % 32)) := by
  simp only [bigSigma1, BitVec.getLsbD_xor, getLsbD_rotr, hi, Nat.reduceLT]

theorem getLsbD_smallSigma0 (x : Word) {i : Nat} (hi : i < 32) : (smallSigma0 x).getLsbD i =
    (x.getLsbD ((i + 7) % 32) ^^ x.getLsbD ((i + 18) % 32) ^^ (decide (i + 3 < 32) && x.getLsbD (i + 3))) := by
  simp only [smallSigma0, BitVec.getLsbD_xor, getLsbD_rotr, getLsbD_shr, hi, Nat.reduceLT]

theorem getLsbD_smallSigma1 (x : Word) {i : Nat} (hi : i < 32) : (smallSigma1 x).getLsbD i =
    (x.getLsbD ((i + 17) % 32) ^^ x.getLsbD ((i + 19) % 32) ^^ (decide (i + 10 < 32) && x.getLsbD (i + 10))) := by
  simp only [smallSigma1, BitVec.getLsbD_xor, getLsbD_rotr, getLsbD_shr, hi, Nat.reduceLT]

/-- Settles O46: each sigma is the XOR of its three terms, whose bits are `getLsbD_rotr` and `getLsbD_shr`; the examples are
evaluated. -/
theorem sigmaBits : Obligations.SigmaBits := by
  refine ⟨fun x i hi => ⟨getLsbD_bigSigma0 x hi, getLsbD_bigSigma1 x hi, getLsbD_smallSigma0 x hi,
    getLsbD_smallSigma1 x hi⟩, ?examples⟩
  case examples => decide

/-! ### The message schedule (41_sha256.md R132) -/

@[simp] theorem schedUpTo_length (m : List Word) (n : Nat) : (schedUpTo m n).length = m.length + n := by
  induction n with
  | zero => rfl
  | succ n ih => rw [schedUpTo, extendSched, List.length_append, ih]; rfl

/-- Extending a schedule leaves the words it has. -/
theorem getD_extendSched_of_lt (w : List Word) (k : Nat) {t : Nat} (ht : t < w.length) :
    (extendSched w k).getD t 0 = w.getD t 0 := List.getD_append w _ 0 t ht

/-- The word that extending a schedule adds. -/
theorem getD_extendSched_length (w : List Word) (k : Nat) : (extendSched w k).getD w.length 0 = nextSchedWord w k := by
  rw [extendSched, List.getD_append_right _ _ _ _ (Nat.le_refl _), Nat.sub_self]
  rfl

/-- A word of the schedule stays as it is when more words are added. -/
theorem getD_schedUpTo_of_le (m : List Word) {n k t : Nat} (hnk : n ≤ k) (ht : t < m.length + n) :
    (schedUpTo m k).getD t 0 = (schedUpTo m n).getD t 0 := by
  induction k, hnk using Nat.le_induction with
  | base => rfl
  | succ k hnk ih => rw [schedUpTo, getD_extendSched_of_lt _ _ (by rw [schedUpTo_length]; omega), ih]

/-- The next word depends on the words before it only. -/
theorem nextSchedWord_congr {w w' : List Word} {t : Nat} (ht : 16 ≤ t)
    (h : ∀ k, k < t → w.getD k 0 = w'.getD k 0) : nextSchedWord w t = nextSchedWord w' t := by
  rw [nextSchedWord, nextSchedWord, h (t - 2) (by omega), h (t - 7) (by omega), h (t - 15) (by omega),
    h (t - 16) (by omega)]

/-- Word `16 + n` of a schedule is the recurrence on that schedule itself: it was computed when only the words before it were
there, and these stay. -/
theorem getD_schedUpTo_recurrence {m : List Word} (hm : m.length = 16) {n k : Nat} (hnk : n < k) :
    (schedUpTo m k).getD (16 + n) 0 = nextSchedWord (schedUpTo m k) (16 + n) := by
  have hlen : 16 + n = (schedUpTo m n).length := by rw [schedUpTo_length, hm]
  calc (schedUpTo m k).getD (16 + n) 0
      = (schedUpTo m (n + 1)).getD (16 + n) 0 := getD_schedUpTo_of_le m hnk (by omega)
    _ = nextSchedWord (schedUpTo m n) (16 + n) := by
        rw [schedUpTo]; exact hlen ▸ getD_extendSched_length _ _
    _ = nextSchedWord (schedUpTo m k) (16 + n) :=
        nextSchedWord_congr (by omega) fun t ht => (getD_schedUpTo_of_le m hnk.le (by omega)).symm

/-- Settles O47: the schedule is the block with 48 words added, and each added word meets the recurrence. -/
theorem scheduleRecurrence : Obligations.ScheduleRecurrence := by
  refine fun m hm => ⟨by rw [schedule, schedUpTo_length, hm], fun t ht => ?block, fun t h16 h64 => ?later⟩
  case block => exact getD_schedUpTo_of_le m (Nat.zero_le 48) (by omega)
  case later =>
    obtain ⟨n, rfl⟩ := Nat.exists_eq_add_of_le h16
    exact getD_schedUpTo_recurrence hm (by omega)

/-! ### The digest bytes (41_sha256.md R137) -/

/-- Byte `q` of a word, most significant first (00_scope.md R10), with more bytes after it. -/
theorem byteAt_be32Bytes_append (w : Word) (rest : Bytes) {q : Nat} (hq : q < 4) :
    byteAt (be32Bytes w ++ rest) q = byteOf w (3 - q) := by
  interval_cases q <;> rfl

/-- Byte `4j + q` of a sequence of words is byte `q` of word `j`. -/
theorem byteAt_flatMap_be32Bytes (ws : List Word) (j : Nat) {q : Nat} (hq : q < 4) :
    byteAt (ws.flatMap be32Bytes) (4 * j + q) = byteOf (ws.getD j 0) (3 - q) := by
  induction ws generalizing j with
  | nil => simp [byteAt, byteOf]
  | cons w ws ih =>
    rw [List.flatMap_cons]
    cases j with
    | zero => rw [Nat.mul_zero, Nat.zero_add]; exact byteAt_be32Bytes_append w _ hq
    | succ j =>
      rw [show 4 * (j + 1) + q = 4 * j + q + 4 by omega, List.getD_cons_succ, ← ih j]
      rfl

/-- Byte `i` of a digest is byte `i` of the eight words in order. -/
theorem nth_digestOfHash (h : EightWords) {i : Nat} (hi : i < 32) :
    nth (digestOfHash h) i = byteAt (h.words.flatMap be32Bytes) i := nth_arrayOf_of_lt _ hi

/-- Settles O48: the digest is the sequence of the words' bytes, four to a word, and SHA256 is its definition. -/
theorem sha256OutputBytes : Obligations.Sha256OutputBytes := by
  refine ⟨fun h j q hj hq => ?bytes, fun _ => rfl⟩
  case bytes => rw [nth_digestOfHash h (by omega), byteAt_flatMap_be32Bytes _ _ hq, byteOf]

end Sys2Proof.Machine

/-! Proofs of the statements of 42_sha3_256.md: the step mappings lane by lane (R167 to R172), absorbing (R164), Keccak-f as a
permutation (R165), and the digest bytes (R175). -/

namespace Sys2Proof.Machine

/-! ### Lanes and their indices (42_sha3_256.md R161) -/

/-- Index arithmetic is modulo 5. -/
theorem lane_congr_left (A : Lanes) {x x' : Nat} (y : Nat) (h : x % 5 = x' % 5) : lane A x y = lane A x' y := by
  rw [lane, lane, h]

@[simp] theorem lane_mod_left (A : Lanes) (x y : Nat) : lane A (x % 5) y = lane A x y :=
  lane_congr_left A y (Nat.mod_mod x 5)

/-- Lane number `i` of the state is `A[i mod 5][i div 5]`. -/
theorem lane_div_mod (A : Lanes) {i : Nat} (hi : i < 25) : lane A (i % 5) (i / 5) = nth A i := by
  rw [lane, show i % 5 % 5 + 5 * (i / 5 % 5) = i by omega]

/-! ### Left rotation (00_scope.md R9) -/

theorem rotl_eq_rotateLeft {N : Nat} (x : BitVec N) {n : Nat} (hn : n < N) : rotl x n = x.rotateLeft n := by
  rw [BitVec.rotateLeft_def, Nat.mod_eq_of_lt hn, rotl]
  rcases Nat.eq_zero_or_pos n with rfl | hpos
  · simp [BitVec.ushiftRight_eq_zero]
  · rw [if_neg hpos.ne']

/-- Bit `i` of a left rotation comes from `n` places below, around the end: a left rotation by `n` is a right one by `N - n`. -/
theorem getLsbD_rotl {N : Nat} (x : BitVec N) {n i : Nat} (hn : n < N) (hi : i < N) :
    (rotl x n).getLsbD i = x.getLsbD ((i + (N - n)) % N) := by
  rcases Nat.eq_zero_or_pos n with rfl | hpos
  · simp [rotl, Nat.mod_eq_of_lt hi]
  · have hright : rotl x n = rotr x (N - n) := by
      rw [rotl, if_neg hpos.ne', rotr, if_neg (by omega), Nat.sub_sub_self hn.le, BitVec.or_comm]
    rw [hright, getLsbD_rotr x (by omega) hi]

/-- A rotation loses no bit. -/
theorem rotl_injective {N n : Nat} (hn : n < N) : Function.Injective fun x : BitVec N => rotl x n := by
  intro u v h
  refine BitVec.eq_of_getLsbD_eq fun i hi => ?_
  have hsource : ((i + n) % N + (N - n)) % N = i := by
    rw [Nat.mod_add_mod, show i + n + (N - n) = i + N by omega, Nat.add_mod_right, Nat.mod_eq_of_lt hi]
  have hplace : (i + n) % N < N := Nat.mod_lt _ (by omega)
  calc u.getLsbD i
      = (rotl u n).getLsbD ((i + n) % N) := by rw [getLsbD_rotl u hn hplace, hsource]
    _ = (rotl v n).getLsbD ((i + n) % N) := congrArg (fun r : BitVec N => r.getLsbD ((i + n) % N)) h
    _ = v.getLsbD i := by rw [getLsbD_rotl v hn hplace, hsource]

/-- Every rho offset is less than the width of a lane (42_sha3_256.md R169). -/
theorem rhoOffset_lt {x y : Nat} (hx : x < 5) (hy : y < 5) : rhoOffset x y < 64 := by
  interval_cases x <;> interval_cases y <;> decide

/-! ### The step mappings lane by lane (42_sha3_256.md R167 to R172) -/

section
variable (A : Lanes) {x y : Nat} (hx : x < 5) (hy : y < 5)
include hx hy

theorem lane_theta : lane (theta A) x y = lane A x y ^^^ thetaEffect A x := lane_lanesOf _ hx hy

theorem lane_rho : lane (rho A) x y = rotl (lane A x y) (rhoOffset x y) := lane_lanesOf _ hx hy

theorem lane_piStep : lane (piStep A) x y = lane A (x + 3 * y) x := lane_lanesOf _ hx hy

theorem lane_iota (ir : Nat) :
    lane (iota A ir) x y = if x = 0 ∧ y = 0 then lane A 0 0 ^^^ roundConstant ir else lane A x y :=
  lane_lanesOf _ hx hy

/-- π moves the lane at `(x, y)` to `(y, (2x + 3y) mod 5)`: the column read there is `y + 3(2x + 3y) = 6x + 10y`, which is
`x` modulo 5. -/
theorem lane_piStep_moved : lane (piStep A) y ((2 * x + 3 * y) % 5) = lane A x y := by
  have hcolumn : (y + 3 * ((2 * x + 3 * y) % 5)) % 5 = x := by omega
  rw [lane_piStep A hy (Nat.mod_lt _ (by decide)), ← lane_mod_left, hcolumn]

end

/-- χ at every column, counted around the row. -/
theorem lane_chi (A : Lanes) (x : Nat) {y : Nat} (hy : y < 5) :
    lane (chi A) x y = lane A x y ^^^ (~~~(lane A (x + 1) y) &&& lane A (x + 2) y) := by
  have hnext (k : Nat) : lane A (x % 5 + k) y = lane A (x + k) y := lane_congr_left A y (Nat.mod_add_mod x 5 k)
  rw [← lane_mod_left (chi A), chi, lane_lanesOf _ (Nat.mod_lt _ (by decide)) hy, lane_mod_left, hnext, hnext]

/-- Settles O51: each mapping's lane is its defining expression, with the indices reduced modulo 5. -/
theorem stepMappingsLanewise : Obligations.StepMappingsLanewise := by
  refine fun A x y ir hx hy => ⟨?theta, ?rho, ?chi, lane_iota A hx hy ir⟩
  case theta => rw [lane_theta A hx hy, thetaEffect, columnParity, columnParity]
  case rho => rw [lane_rho A hx hy, rotl_eq_rotateLeft _ (rhoOffset_lt hx hy)]
  case chi => rw [lane_chi A x hy, lane_mod_left, lane_mod_left]

/-- Settles O52: π reads by its definition, and the lane at the new place is read from the old one. -/
theorem piMovesLanes : Obligations.PiMovesLanes := fun A x y hx hy =>
  ⟨by rw [lane_piStep A hx hy, lane_mod_left], lane_piStep_moved A hx hy⟩

/-! ### Absorbing a block (42_sha3_256.md R164) -/

/-- Lane number `i` after a block is XORed in. -/
theorem lane_xorBlock (A : Lanes) (b : Bytes) {i : Nat} (hi : i < 25) : lane (xorBlock A b) (i % 5) (i / 5) =
    if i < 17 then lane A (i % 5) (i / 5) ^^^ blockLane b i else lane A (i % 5) (i / 5) := by
  rw [lane_div_mod _ hi, lane_div_mod _ hi, xorBlock, nth_arrayOf_of_lt _ hi]

/-- Settles O54: the state that the permutation gets is `xorBlock A b`. -/
theorem absorbXorsTheRate : Obligations.AbsorbXorsTheRate := by
  refine fun A b => ⟨xorBlock A b, rfl, fun i hi => ?rate, fun i hlo hhi => ?capacity⟩
  case rate => rw [lane_xorBlock A b (by omega), if_pos hi, blockLane]
  case capacity => rw [lane_xorBlock A b hhi, if_neg (Nat.not_lt.2 hlo)]

/-! ### ρ, π, χ and ι can be undone (42_sha3_256.md R165) -/

theorem rho_injective : Function.Injective rho := by
  intro A B h
  refine lanes_ext fun x y hx hy => rotl_injective (rhoOffset_lt hx hy) ?_
  simpa only [lane_rho _ hx hy] using congrArg (lane · x y) h

theorem piStep_injective : Function.Injective piStep := by
  intro A B h
  refine lanes_ext fun x y hx hy => ?_
  rw [← lane_piStep_moved A hx hy, h, lane_piStep_moved B hx hy]

/-- On the five bits of a row χ has an inverse, which gives back a bit from the new bits of the row. -/
theorem chiBit_inverse (a b c d e : Bool) :
    let a' := a ^^ (!b && c)
    let b' := b ^^ (!c && d)
    let c' := c ^^ (!d && e)
    let d' := d ^^ (!e && a)
    let e' := e ^^ (!a && b)
    (a' ^^ (!b' && (c' ^^ (!d' && e')))) = a := by
  decide +revert

/-- A lane from the lanes of its row after χ. -/
theorem lane_eq_of_chi (A : Lanes) (x : Nat) {y : Nat} (hy : y < 5) : lane A x y =
    lane (chi A) x y ^^^ (~~~(lane (chi A) (x + 1) y) &&&
      (lane (chi A) (x + 2) y ^^^ (~~~(lane (chi A) (x + 3) y) &&& lane (chi A) (x + 4) y))) := by
  have hfive : lane A (x + 5) y = lane A x y := lane_congr_left A y (Nat.add_mod_right x 5)
  have hsix : lane A (x + 6) y = lane A (x + 1) y := lane_congr_left A y (Nat.add_mod_right (x + 1) 5)
  refine BitVec.eq_of_getLsbD_eq fun i hi => ?_
  simp only [lane_chi A _ hy, Nat.add_assoc, Nat.reduceAdd, hfive, hsix, BitVec.getLsbD_xor, BitVec.getLsbD_and,
    BitVec.getLsbD_not, hi, decide_true, Bool.true_and]
  exact (chiBit_inverse _ _ _ _ _).symm

theorem chi_injective : Function.Injective chi := by
  intro A B h
  refine lanes_ext fun x y hx hy => ?_
  rw [lane_eq_of_chi A x hy, h, ← lane_eq_of_chi B x hy]

/-- ι twice with one constant changes nothing. -/
theorem iota_involutive (ir : Nat) : Function.Involutive (iota · ir) := by
  refine fun A => lanes_ext fun x y hx hy => ?_
  have hcorner : lane (iota A ir) 0 0 = lane A 0 0 ^^^ roundConstant ir := by
    rw [lane_iota A (by decide) (by decide), if_pos ⟨rfl, rfl⟩]
  rw [lane_iota _ hx hy, hcorner, lane_iota A hx hy]
  split
  · next h => rw [h.1, h.2, BitVec.xor_assoc, BitVec.xor_self, BitVec.xor_zero]
  · rfl

/-! ### θ can be undone (42_sha3_256.md R165)

θ maps the column parities `P` to `P + QP`, where `Q = X + X⁻¹Z` is a polynomial over two elements, `X` shifts the columns
(`X⁵ = 1`) and `Z` rotates a lane (`Z⁶⁴ = 1`). If two states have one image, the difference `P` of their parities has `QP = P`,
so it has `Q⁶⁴P = P`; and squaring term by term, `Q⁶⁴ = X⁶⁴ + X⁻⁶⁴ = X⁻¹ + X`, without `Z`. Five bits with
`P[x] = P[x-1] + P[x+1]` around a circle are all 0. -/

/-- Bit `z` of the parity of column `x`, both indices cyclic. -/
def parityBit (A : Lanes) (x z : Nat) : Bool := (columnParity A x).getLsbD (z % 64)

theorem columnParity_mod (A : Lanes) (x : Nat) : columnParity A (x % 5) = columnParity A x := by
  simp only [columnParity, lane_mod_left]

/-- Both indices are cyclic. -/
theorem parityBit_congr (A : Lanes) {x x' z z' : Nat} (hx : x % 5 = x' % 5) (hz : z % 64 = z' % 64) :
    parityBit A x z = parityBit A x' z' := by
  rw [parityBit, parityBit, hz, ← columnParity_mod A x, hx, columnParity_mod]

/-- The parities of all columns are known by their bits. -/
theorem columnParity_eq_of_parityBit {A B : Lanes} (h : ∀ x z, parityBit A x z = parityBit B x z) :
    columnParity A = columnParity B := by
  funext x
  refine BitVec.eq_of_getLsbD_eq fun i hi => ?_
  simpa only [parityBit, Nat.mod_eq_of_lt hi] using h x i

/-- θ adds the same lane to all five lanes of a column, so once to its parity. -/
theorem columnParity_theta (A : Lanes) {x : Nat} (hx : x < 5) :
    columnParity (theta A) x = columnParity A x ^^^ thetaEffect A x := by
  simp only [columnParity, lane_theta A hx, Nat.reduceLT]
  refine BitVec.eq_of_getLsbD_eq fun i _ => ?_
  simp only [BitVec.getLsbD_xor]
  cases (thetaEffect A x).getLsbD i <;> simp

/-- The bits of `QP`. -/
theorem getLsbD_thetaEffect (A : Lanes) (x z : Nat) :
    (thetaEffect A x).getLsbD (z % 64) = (parityBit A (x + 4) z ^^ parityBit A (x + 1) (z + 63)) := by
  rw [thetaEffect, columnParity_mod, columnParity_mod, BitVec.getLsbD_xor,
    getLsbD_rotl _ (by decide) (Nat.mod_lt _ (by decide)), Nat.mod_add_mod, parityBit, parityBit]

/-- The bits of `P + QP`. -/
theorem parityBit_theta (A : Lanes) (x z : Nat) :
    parityBit (theta A) x z = (parityBit A x z ^^ (parityBit A (x + 4) z ^^ parityBit A (x + 1) (z + 63))) := by
  have hcolumn (k z : Nat) : parityBit A (x % 5 + k) z = parityBit A (x + k) z :=
    parityBit_congr A (Nat.mod_add_mod x 5 k) rfl
  rw [parityBit, ← columnParity_mod, columnParity_theta A (Nat.mod_lt _ (by decide)), BitVec.getLsbD_xor,
    getLsbD_thetaEffect, hcolumn, hcolumn, columnParity_mod, ← parityBit]

/-- Squaring term by term, `k` times: from `QP = P` to `Q ^ 2 ^ k P = P` for a `Q` of two terms. -/
theorem xorRecurrence_pow {f : Nat → Nat → Bool} {a c n : Nat} (h : ∀ x z, f x z = (f (x + a) z ^^ f (x + c) (z + n)))
    (k x z : Nat) : f x z = (f (x + 2 ^ k * a) z ^^ f (x + 2 ^ k * c) (z + 2 ^ k * n)) := by
  induction k generalizing x z with
  | zero => simpa using h x z
  | succ k ih =>
    have hmixed : x + 2 ^ k * a + 2 ^ k * c = x + 2 ^ k * c + 2 ^ k * a := by omega
    have htwice (i m : Nat) : i + 2 ^ k * m + 2 ^ k * m = i + 2 ^ (k + 1) * m := by ring
    rw [ih x z, ih (x + 2 ^ k * a) z, ih (x + 2 ^ k * c) (z + 2 ^ k * n), hmixed, htwice, htwice, htwice]
    cases f (x + 2 ^ k * c + 2 ^ k * a) (z + 2 ^ k * n) <;> simp

/-- Five bits around a circle, each the XOR of its two neighbours, are 0. -/
theorem circle_xor_false (a b c d e : Bool) (ha : a = (b ^^ e)) (hb : b = (c ^^ a)) (hc : c = (d ^^ b))
    (hd : d = (e ^^ c)) (he : e = (a ^^ d)) : a = false := by
  decide +revert

/-- `QP = P` has only the zero solution. -/
theorem xorRecurrence_false {f : Nat → Nat → Bool}
    (hcyc : ∀ {x x' z z'}, x % 5 = x' % 5 → z % 64 = z' % 64 → f x z = f x' z')
    (h : ∀ x z, f x z = (f (x + 4) z ^^ f (x + 1) (z + 63))) (x z : Nat) : f x z = false := by
  have hneighbours (x : Nat) : f x z = (f (x + 1) z ^^ f (x + 4) z) := by
    rw [xorRecurrence_pow h 6 x z]
    exact congrArg₂ xor (hcyc (by omega) rfl) (hcyc (by omega) (by omega))
  have hwrap (k : Nat) : f (x + (k + 5)) z = f (x + k) z := hcyc (by omega) rfl
  refine circle_xor_false _ (f (x + 1) z) (f (x + 2) z) (f (x + 3) z) (f (x + 4) z) (hneighbours x) ?_ ?_ ?_ ?_
  · rw [hneighbours (x + 1)]; exact congrArg₂ xor rfl (hwrap 0)
  · rw [hneighbours (x + 2)]; exact congrArg₂ xor rfl (hwrap 1)
  · rw [hneighbours (x + 3)]; exact congrArg₂ xor rfl (hwrap 2)
  · rw [hneighbours (x + 4)]; exact congrArg₂ xor (hwrap 0) (hwrap 3)

/-- States with one image under θ have the same column parities. -/
theorem columnParity_eq_of_theta_eq {A B : Lanes} (h : theta A = theta B) : columnParity A = columnParity B := by
  have himage (x z : Nat) := (parityBit_theta A x z).symm.trans (h ▸ parityBit_theta B x z)
  have hdiff := xorRecurrence_false (f := fun x z => parityBit A x z ^^ parityBit B x z)
    (fun hx hz => congrArg₂ xor (parityBit_congr A hx hz) (parityBit_congr B hx hz)) fun x z => by
      have := himage x z
      grind
  refine columnParity_eq_of_parityBit fun x z => ?_
  simpa using hdiff x z

theorem theta_injective : Function.Injective theta := by
  intro A B h
  have heffect (x : Nat) : thetaEffect A x = thetaEffect B x := by
    rw [thetaEffect, columnParity_eq_of_theta_eq h, ← thetaEffect]
  refine lanes_ext fun x y hx hy => ?_
  have hlane := congrArg (lane · x y) h
  simpa only [lane_theta _ hx hy, heffect, BitVec.xor_left_inj] using hlane

/-! ### Keccak-f[1600] (42_sha3_256.md R165, R166) -/

theorem keccakRound_injective (ir : Nat) : Function.Injective (keccakRound · ir) :=
  (iota_involutive ir).injective.comp
    (chi_injective.comp (piStep_injective.comp (rho_injective.comp theta_injective)))

theorem keccakRounds_injective (n : Nat) : Function.Injective (keccakRounds · n) := by
  induction n with
  | zero => exact Function.injective_id
  | succ n ih => exact (keccakRound_injective n).comp ih

theorem keccakRounds_eq_foldl (A : Lanes) (n : Nat) : keccakRounds A n = (List.range n).foldl keccakRound A := by
  induction n with
  | zero => rfl
  | succ n ih => rw [keccakRounds, ih, List.range_succ, List.foldl_concat]

/-- There are finitely many states: 25 lanes of 64 bits. -/
theorem finite_lanes : Finite Lanes :=
  Finite.of_injective (fun A (i : Fin 25) => nth A i) fun _ _ h => array_ext fun i hi => congrFun h ⟨i, hi⟩

/-- Settles O55: the rounds are a fold, each is one-to-one since its five mappings are, and the states are finite in number. -/
theorem keccakFIsAPermutation : Obligations.KeccakFIsAPermutation := by
  have := finite_lanes
  exact ⟨fun A => keccakRounds_eq_foldl A 24, Finite.injective_iff_bijective.1 (keccakRounds_injective 24)⟩

/-! ### The digest bytes (42_sha3_256.md R175) -/

/-- In a sequence of pieces of `n` bytes each, byte `n * j + q` is byte `q` of piece `j`. -/
theorem byteAt_flatMap {α : Type} {g : α → Bytes} {n : Nat} (hg : ∀ a, (g a).length = n) (as : List α) {j q : Nat}
    (hj : j < as.length) (hq : q < n) : byteAt (as.flatMap g) (n * j + q) = byteAt (g as[j]) q := by
  induction as generalizing j with
  | nil => exact absurd hj (Nat.not_lt_zero j)
  | cons a as ih =>
    rw [List.flatMap_cons]
    cases j with
    | zero =>
      rw [Nat.mul_zero, Nat.zero_add]
      exact List.getD_append _ _ _ _ (by rw [hg]; exact hq)
    | succ j =>
      have hskip : n * (j + 1) + q - (g a).length = n * j + q := by rw [hg, Nat.mul_succ]; omega
      rw [byteAt, List.getD_append_right _ _ _ _ (by rw [hg, Nat.mul_succ]; omega), hskip]
      exact ih (Nat.lt_of_succ_lt_succ hj)

/-- Byte `q` of a lane, least significant first (00_scope.md R10). -/
theorem byteAt_le64Bytes (v : Lane) {q : Nat} (hq : q < 8) : byteAt (le64Bytes v) q = byteOf v q := by
  interval_cases q <;> rfl

/-- The digest is the bytes of lanes `A[0][0]` to `A[3][0]` in order. -/
theorem squeeze_eq_flatMap (A : Lanes) :
    squeeze A = bytesToVector 32 ((List.range 4).flatMap fun x => le64Bytes (lane A x 0)) := rfl

/-- Settles O56: byte `8x + q` of four lanes' bytes is byte `q` of lane `x`, and SHA3_256 is its definition. -/
theorem squeezeBytes : Obligations.SqueezeBytes := by
  refine ⟨fun A x q hx hq => ?bytes, fun _ => rfl⟩
  case bytes =>
    rw [squeeze_eq_flatMap, bytesToVector, nth_arrayOf_of_lt _ (by omega),
      byteAt_flatMap (fun x => le64Bytes_length (lane A x 0)) _ (by simpa using hx) hq, List.getElem_range,
      byteAt_le64Bytes _ hq, byteOf]

end Sys2Proof.Machine

/-! Proofs of the statements of 43_hex_encoder.md: the hex digits of every byte (R201, R202) and the terminator bytes of HEX
(R203). -/

namespace Sys2Proof.Machine

/-! ### The digit mapping (43_hex_encoder.md R201) -/

/-- Digits 0 to 9 have the codes of '0' to '9': the sum stays below 256, so it does not wrap. -/
theorem toNat_hexDigit_of_le {v : BitVec 4} (h : v.toNat ≤ 9) : (hexDigit v).toNat = 0x30 + v.toNat := by
  rw [hexDigit, if_pos h]
  bv_omega

/-- Digits 10 to 15 have the codes of 'a' to 'f': neither the difference nor the sum wraps. -/
theorem toNat_hexDigit_of_ge {v : BitVec 4} (h : 10 ≤ v.toNat) : (hexDigit v).toNat = 0x61 + (v.toNat - 10) := by
  rw [hexDigit, if_neg (by omega)]
  bv_omega

/-- Settles O58: the codes are the two branches of the digit mapping, and the characters are `hexEncode_high` and
`hexEncode_low`. -/
theorem hexDigitsOfEveryByte : Obligations.HexDigitsOfEveryByte :=
  ⟨fun _ => ⟨toNat_hexDigit_of_le, toNat_hexDigit_of_ge⟩, fun D _ hj => ⟨hexEncode_high D hj, hexEncode_low D hj⟩⟩

/-! ### The terminator (43_hex_encoder.md R203) -/

/-- From character 64 on, a byte of HEX is the constant 0x00. -/
theorem hexByte_of_ge (s : State) {j : Nat} (hj : 64 ≤ j) : hexByte s j = 0x00 := if_neg (Nat.not_lt.2 hj)

/-- Settles O17: bytes 64 to 67 are past the stored characters, and offset 0x080 is HEX word 16, the terminator's. -/
theorem hexTerminator : Obligations.HexTerminator := fun s =>
  ⟨fun _ hj _ => hexByte_of_ge s hj,
    fun _ hoff => (busRead_hex s (k := 16) (by decide) hoff).trans (hexWord_terminator s)⟩

end Sys2Proof.Machine

/-! Proofs of the statements of 44_dispatch.md: the outputs of a command depend on its inputs only (R227). -/

namespace Sys2Proof.Machine

/-! ### A command that passes its checks is in flight after its acceptance (44_dispatch.md R222, R223) -/

theorem validTag_iff (tag : Nat) : validTag tag = true ↔ tag = 0 ∨ tag = 1 := by
  simp [validTag, tagSha256, tagSha3_256]

/-- A check that is made first lets pass what fails its condition and passes the checks behind it. -/
theorem ite_some_eq_none_iff {α : Type} (p : Prop) [Decidable p] (e : α) (rest : Option α) :
    (if p then some e else rest) = none ↔ ¬p ∧ rest = none := by
  by_cases hp : p <;> simp [hp]

theorem commandError_eq_none_iff (i : Instr) (s : State) : commandError i s = none ↔ PassesChecks i s := by
  cases i with
  | digest srcv tag => simp [commandError, PassesChecks, ite_some_eq_none_iff, validTag_iff, or_iff_not_imp_left]
  | sha256 srcv => simp [commandError, PassesChecks, ite_some_eq_none_iff]
  | sha3_256 srcv => simp [commandError, PassesChecks, ite_some_eq_none_iff]
  | hexenc => simp [commandError, PassesChecks]

/-- The latch of a command that passes its checks names that command: its input is present and its tag fits in ALG. -/
theorem latchedInstr_of_passes {i : Instr} {s t : State} (hp : PassesChecks i s) (hop : t.opL = opOf i)
    (halg : t.algL = algOf i) : latchedInstr t = some i := by
  cases i with
  | digest srcv tag =>
    obtain ⟨rfl, _, rfl | rfl⟩ := hp <;> simp [latchedInstr, hop, halg, opOf, algOf, validTag_iff]
  | sha256 srcv =>
    obtain ⟨rfl, _⟩ := hp
    simp [latchedInstr, hop, opOf]
  | sha3_256 srcv =>
    obtain ⟨rfl, _⟩ := hp
    simp [latchedInstr, hop, opOf]
  | hexenc => simp [latchedInstr, hop, opOf]

/-- In IDLE, the two steps of a command that passes its checks are its acceptance and its completion. -/
theorem exec_exec_of_passes {i : Instr} {s : State} (hb : s.busy = false) (hp : PassesChecks i s) :
    exec i s = .next (acceptance i s) ∧ exec i (acceptance i s) = .next (completion i (acceptance i s)) := by
  obtain ⟨_, hbusy, _⟩ := acceptance_flags i hb
  rw [(commandError_eq_none_iff i s).2 hp] at hbusy
  obtain ⟨_, _, _, _, _, _, _, _, hop, halg, _⟩ := acceptance_fields i s
  exact ⟨exec_idle i hb, exec_inFlight i hbusy (latchedInstr_of_passes hp hop halg)⟩

/-! ### The outputs, from the inputs (44_dispatch.md R224, R227) -/

theorem completion_outputs (i : Instr) (s : State) : OutputsOf i s (completion i s) := by
  cases i <;> exact ⟨rfl, rfl⟩

/-- LEN and the bytes of MSG below it are all that the message of an accepted command depends on. -/
theorem message_acceptance_congr (i : Instr) {s t : State} (hlen : s.len = t.len)
    (hmsg : ∀ a, a < s.len.toNat → msgByte s a = msgByte t a) :
    message (acceptance i s) = message (acceptance i t) := by
  obtain ⟨_, _, _, _, _, _, hms, hes, _, _, hls, _⟩ := acceptance_fields i s
  obtain ⟨_, _, _, _, _, _, hmt, het, _, _, hlt, _⟩ := acceptance_fields i t
  refine message_congr (by rw [hls, hlt, hlen]) fun a ha => ?_
  rw [msgByte_congr hms hes, msgByte_congr hmt het]
  exact hmsg a (hls ▸ ha)

/-- Settles O32: acceptance reads the same message and keeps DIGEST and HEX, and the completion's outputs are those of
`OutputsOf`, a function of the message and of DIGEST. -/
theorem outputsDependOnInputsOnly : Obligations.OutputsDependOnInputsOnly := by
  intro i s₁ s₂ hb₁ hb₂ hp₁ hp₂ hlen hmsg hdigest
  obtain ⟨haccept₁, hcomplete₁⟩ := exec_exec_of_passes hb₁ hp₁
  obtain ⟨haccept₂, hcomplete₂⟩ := exec_exec_of_passes hb₂ hp₂
  refine ⟨_, _, _, _, haccept₁, hcomplete₁, haccept₂, hcomplete₂, ?_⟩
  have hm : message (acceptance i s₁) = message (acceptance i s₂) := message_acceptance_congr i hlen hmsg
  obtain ⟨_, _, _, _, hd₁, hh₁, _⟩ := acceptance_fields i s₁
  obtain ⟨_, _, _, _, hd₂, hh₂, _⟩ := acceptance_fields i s₂
  have hd : (acceptance i s₁).digest = (acceptance i s₂).digest := by rw [hd₁, hd₂, hdigest]
  have out₁ := completion_outputs i (acceptance i s₁)
  have out₂ := completion_outputs i (acceptance i s₂)
  unfold OutputsOf at out₁ out₂
  rw [hm, hd] at out₁
  cases i with
  | digest _ _ => exact ⟨out₁.1.trans out₂.1.symm, out₁.2.trans out₂.2.symm⟩
  | sha256 _ => exact ⟨out₁.1.trans out₂.1.symm, out₁.2.trans hh₁, out₂.2.trans hh₂⟩
  | sha3_256 _ => exact ⟨out₁.1.trans out₂.1.symm, out₁.2.trans hh₁, out₂.2.trans hh₂⟩
  | hexenc => exact ⟨out₁.1.trans out₂.1.symm, out₁.2.trans out₂.2.symm⟩

end Sys2Proof.Machine

/-! Proofs of the statements of 60_exceptions.md: a rejected word changes nothing else (R261). -/

namespace Sys2Proof.Machine

/-- A command whose acceptance leaves an error code was latched and given an error, and nothing else: a started command has
ERR = 0 (44_dispatch.md R222). -/
theorem acceptance_of_err_ne_zero {i : Instr} {s : State} (herr : (acceptance i s).err ≠ 0) :
    ∃ e, acceptance i s = raiseError e (latch (opOf i) (algOf i) s) := by
  unfold acceptance at herr ⊢
  cases hc : commandError i s with
  | some e => exact ⟨e, rfl⟩
  | none =>
    rw [hc] at herr
    exact absurd (startCommand_err _) herr

/-- A word written to CMD in IDLE that ends with an error, illegal or failing a check, does three things: CMD takes it, the latch
is written, and the error is taken (60_exceptions.md R262). -/
theorem busWrite_cmd_of_err_ne_zero {off c : Word} {s t : State} (hb : s.busy = false) (hoff : wordOffset off = 0x000)
    (hw : busWrite off c s = .next t) (herr : t.err ≠ 0) :
    ∃ e op alg, t = raiseError e (latch op alg { s with cmd := c }) := by
  have haccept : accept c { s with cmd := c } = .next t := by simpa [busWrite_cmd s c hoff, writeCmd, hb] using hw
  rcases accept_cases c (s := { s with cmd := c }) hb with ⟨e, _, ha⟩ | ⟨i, _, ha⟩ <;> cases haccept.symm.trans ha
  · exact ⟨e, fieldOp c, fieldAlg c, rfl⟩
  · obtain ⟨e, he⟩ := acceptance_of_err_ne_zero herr
    exact ⟨e, opOf i, algOf i, he⟩

/-- Settles O21: taking an error writes ERR and DONE, the latch is internal, and CMD is not among the fields kept. -/
theorem rejectionChangesNothingElse : Obligations.RejectionChangesNothingElse := by
  intro s t off c hb hoff hw herr
  obtain ⟨e, op, alg, rfl⟩ := busWrite_cmd_of_err_ne_zero hb hoff hw herr
  exact ⟨rfl, rfl, rfl, fun _ => rfl, rfl, rfl, rfl, rfl, hb, rfl, rfl⟩

end Sys2Proof.Machine

/-! Proofs of the statements of 30_encoding.md sections 2 and 4: the rows of the opcode map are disjoint (R84), and the decoder
and the assembler undo each other (R85, R89). -/

namespace Sys2Proof

/-! ### The rows are told apart by OP (30_encoding.md R84) -/

/-- Every row fixes OP: its mask has ones there. -/
theorem OpRow.fieldOp_of_holds {r : OpRow} {c : Word} (hr : r ∈ opTable) (h : r.holds c = true) :
    fieldOp c = fieldOp r.pattern := by
  have hmask : ∀ r ∈ opTable, ∀ i, i < 4 → r.mask.getLsbD (0 + i) = true := by decide
  refine OpRow.field_of_holds h 0 4 _ fun i hi => ⟨hmask r hr i hi, ?_⟩
  simp [fieldOp, hi]

/-- Settles O3: the four patterns differ in OP. -/
theorem opcodeRowsDisjoint : Obligations.OpcodeRowsDisjoint := by
  have hops : opTable.Pairwise fun r r' => fieldOp r.pattern ≠ fieldOp r'.pattern := by decide
  refine hops.imp_of_mem fun hr hr' hne c ⟨h, h'⟩ => hne ?_
  rw [← OpRow.fieldOp_of_holds hr h, OpRow.fieldOp_of_holds hr' h']

/-! ### The six fields of an assembled word (30_encoding.md R89) -/

/-- The SRCV a command is assembled with; HEXENC has none, and its bit is 0. -/
def srcvOf : Instr → Bool
  | .digest srcv _ => srcv
  | .sha256 srcv => srcv
  | .sha3_256 srcv => srcv
  | .hexenc => false

/-- The word carries OP, SRCV and ALG of its command, and its reserved fields are 0. -/
def CarriesFields (c : Word) (i : Instr) : Prop :=
  fieldOp c = Machine.opOf i ∧ fieldRsv0 c = 0 ∧ fieldSrcv c = srcvOf i ∧ fieldRsv1 c = 0 ∧
  fieldAlg c = Machine.algOf i ∧ fieldRsv2 c = 0

/-- A command has one word with its fields. -/
theorem CarriesFields.word_eq {c d : Word} {i : Instr} (hc : CarriesFields c i) (hd : CarriesFields d i) : c = d := by
  obtain ⟨hop, hrsv0, hsrcv, hrsv1, halg, hrsv2⟩ := hc
  obtain ⟨hop', hrsv0', hsrcv', hrsv1', halg', hrsv2'⟩ := hd
  exact (word_eq_iff_fields c d).2 ⟨hop.trans hop'.symm, hrsv0.trans hrsv0'.symm, hsrcv.trans hsrcv'.symm,
    hrsv1.trans hrsv1'.symm, halg.trans halg'.symm, hrsv2.trans hrsv2'.symm⟩

/-- A word has one well-formed command with its fields: OP names the constructor, SRCV and ALG its operands. -/
theorem CarriesFields.instr_eq {c : Word} {i j : Instr} (hi : CarriesFields c i) (hj : CarriesFields c j)
    (hwi : i.wellFormed = true) (hwj : j.wellFormed = true) : i = j := by
  obtain ⟨hop, -, hsrcv, -, halg, -⟩ := hi
  obtain ⟨hop', -, hsrcv', -, halg', -⟩ := hj
  rw [hop] at hop'
  rw [hsrcv] at hsrcv'
  rw [halg] at halg'
  cases i with
  | digest srcv tag =>
    cases j <;> simp only [Machine.opOf, BitVec.reduceEq] at hop'
    next srcv' tag' =>
    have htag : tag % 256 = tag' % 256 := congrArg BitVec.toNat halg'
    simp only [Instr.wellFormed, decide_eq_true_eq] at hwi hwj
    rw [Nat.mod_eq_of_lt hwi, Nat.mod_eq_of_lt hwj] at htag
    exact congrArg₂ Instr.digest hsrcv' htag
  | sha256 srcv =>
    cases j <;> simp only [Machine.opOf, BitVec.reduceEq] at hop'
    exact congrArg Instr.sha256 hsrcv'
  | sha3_256 srcv =>
    cases j <;> simp only [Machine.opOf, BitVec.reduceEq] at hop'
    exact congrArg Instr.sha3_256 hsrcv'
  | hexenc =>
    cases j <;> simp only [Machine.opOf, BitVec.reduceEq] at hop'
    rfl

/-- The assembled word of a well-formed command matches the command's row, which fixes the constant fields, and holds SRCV and
ALG in the places that the row leaves open. -/
theorem encode_carriesFields {i : Instr} (hw : i.wellFormed = true) : CarriesFields (encode i) i := by
  cases i with
  | digest srcv tag =>
    obtain ⟨hop, hrsv0, hrsv1, hrsv2⟩ := (rowDigest_holds_iff _).1 (Laws.EncodesInRow.digest srcv tag hw)
    refine ⟨hop, hrsv0, ?srcv, hrsv1, ?alg, hrsv2⟩
    case srcv => cases srcv <;> simp [fieldSrcv, encode, srcBit, srcvOf]
    case alg =>
      refine BitVec.eq_of_getLsbD_eq fun k hk => ?_
      have hplace : 16 + k < 32 ∧ k < 32 ∧ ¬16 + k < 8 ∧ 16 + k - 8 ≠ 0 := by omega
      cases srcv <;> simp only [fieldAlg, encode, srcBit, Machine.algOf, BitVec.getLsbD_extractLsb', BitVec.getLsbD_or,
        BitVec.getLsbD_shiftLeft, BitVec.getLsbD_ofNat, hk] <;> simp [hplace]
  | sha256 srcv | sha3_256 srcv => cases srcv <;> exact ⟨rfl, rfl, rfl, rfl, rfl, rfl⟩
  | hexenc => exact ⟨rfl, rfl, rfl, rfl, rfl, rfl⟩

/-- A word that decodes carries the fields of what it decodes to. -/
theorem decode_carriesFields {c : Word} {i : Instr} (h : decode c = .ok i) : CarriesFields c i := by
  obtain ⟨hop, halg⟩ := decode_fields h
  rcases decode_cases c with ⟨hr, hd⟩ | ⟨hr, hd⟩ | ⟨hr, hd⟩ | ⟨hr, hd⟩ | ⟨_, _, _, _, hd⟩ <;> cases h.symm.trans hd
  · obtain ⟨-, hrsv0, hrsv1, hrsv2⟩ := (rowDigest_holds_iff c).1 hr
    exact ⟨hop, hrsv0, rfl, hrsv1, halg, hrsv2⟩
  · obtain ⟨-, hrsv0, hrsv1, -, hrsv2⟩ := (rowSha256_holds_iff c).1 hr
    exact ⟨hop, hrsv0, rfl, hrsv1, halg, hrsv2⟩
  · obtain ⟨-, hrsv0, hrsv1, -, hrsv2⟩ := (rowSha3_256_holds_iff c).1 hr
    exact ⟨hop, hrsv0, rfl, hrsv1, halg, hrsv2⟩
  · obtain ⟨-, hrsv0, hsrcv, hrsv1, -, hrsv2⟩ := (rowHexenc_holds_iff c).1 hr
    exact ⟨hop, hrsv0, hsrcv, hrsv1, halg, hrsv2⟩

/-- The tag that a word decodes to is the number in an 8-bit field. -/
theorem decode_wellFormed {c : Word} {i : Instr} (h : decode c = .ok i) : i.wellFormed = true := by
  rcases decode_cases c with ⟨_, hd⟩ | ⟨_, hd⟩ | ⟨_, hd⟩ | ⟨_, hd⟩ | ⟨_, _, _, _, hd⟩ <;> cases h.symm.trans hd
  · exact decide_eq_true (fieldAlg c).isLt
  · rfl
  · rfl
  · rfl

/-- Settles O5: the word and the assembled word carry the same fields, and the fields cover the word. -/
theorem encodeOfDecode : Obligations.EncodeOfDecode := fun _ i h =>
  have hw : i.wellFormed = true := decode_wellFormed h
  ⟨hw, (encode_carriesFields hw).word_eq (decode_carriesFields h)⟩

/-- The assembled word of a well-formed command decodes: it matches the command's row. -/
theorem encode_decodes {i : Instr} (hw : i.wellFormed = true) : ∃ j, decode (encode i) = .ok j := by
  refine (Machine.decode_ok_or_illegal (encode i)).resolve_right fun hillegal => ?_
  obtain ⟨h1, h2, h3, h4⟩ := (decode_illegal_iff_rows _).1 hillegal
  cases i with
  | digest srcv tag => exact h1 (Laws.EncodesInRow.digest srcv tag hw)
  | sha256 srcv => exact h2 (Laws.EncodesInRow.sha256 srcv hw)
  | sha3_256 srcv => exact h3 (Laws.EncodesInRow.sha3_256 srcv hw)
  | hexenc => exact h4 (Laws.EncodesInRow.hexenc hw)

/-- Settles O4: the word decodes to some well-formed command, which has the same fields and so is the same command. -/
theorem decodeOfEncode : Obligations.DecodeOfEncode := by
  intro i hw
  obtain ⟨j, hj⟩ := encode_decodes hw
  have hsame : i = j := (encode_carriesFields hw).instr_eq (decode_carriesFields hj) hw (decode_wellFormed hj)
  rw [hj, hsame]

end Sys2Proof

/-! Proofs of the statements of 43_hex_encoder.md: the encoding is injective and lowercase (R201, R202). -/

namespace Sys2Proof.Machine

/-! ### The 16 digits (43_hex_encoder.md R201) -/

/-- The code of a digit, in one formula. -/
theorem toNat_hexDigit (v : BitVec 4) :
    (hexDigit v).toNat = if v.toNat ≤ 9 then 0x30 + v.toNat else 0x61 + (v.toNat - 10) := by
  split
  · exact toNat_hexDigit_of_le ‹_›
  · exact toNat_hexDigit_of_ge (by omega)

theorem hexDigit_isLowerHex (v : BitVec 4) : isLowerHex (hexDigit v) := by
  unfold isLowerHex
  rw [toNat_hexDigit]
  split <;> omega

/-- Digits 0 to 9 end below 'a', where the others begin, so no code is given twice. -/
theorem hexDigit_injective : Function.Injective hexDigit := by
  intro u v huv
  have hcode : (hexDigit u).toNat = (hexDigit v).toNat := congrArg BitVec.toNat huv
  rw [toNat_hexDigit, toNat_hexDigit] at hcode
  exact BitVec.eq_of_toNat_eq (by split_ifs at hcode <;> omega)

/-! ### The 64 characters (43_hex_encoder.md R202) -/

/-- A byte is known by its two nibbles. -/
theorem byte_eq_of_nibbles_eq {x y : Byte} (hhigh : x.extractLsb' 4 4 = y.extractLsb' 4 4)
    (hlow : x.extractLsb' 0 4 = y.extractLsb' 0 4) : x = y := by
  have hh := congrArg BitVec.toNat hhigh
  have hl := congrArg BitVec.toNat hlow
  simp only [BitVec.extractLsb'_toNat, Nat.shiftRight_eq_div_pow] at hh hl
  exact BitVec.eq_of_toNat_eq (by omega)

theorem hexEncode_injective : Function.Injective hexEncode := by
  intro D D' h
  refine array_ext fun j hj => byte_eq_of_nibbles_eq (hexDigit_injective ?high) (hexDigit_injective ?low)
  case high => rw [← hexEncode_high D hj, h, hexEncode_high D' hj]
  case low => rw [← hexEncode_low D hj, h, hexEncode_low D' hj]

/-- Every character is the digit of a nibble. -/
theorem hexEncode_isLowerHex (D : Digest) {j : Nat} (hj : j < 64) : isLowerHex (nth (hexEncode D) j) := by
  rcases Nat.even_or_odd' j with ⟨k, rfl | rfl⟩
  · rw [hexEncode_high D (by omega)]
    exact hexDigit_isLowerHex _
  · rw [hexEncode_low D (by omega)]
    exact hexDigit_isLowerHex _

/-- Settles O59: the digit mapping is one-to-one onto the 16 characters, and each byte is its two nibbles. -/
theorem hexEncodingInjective : Obligations.HexEncodingInjective :=
  ⟨fun _ _ h => hexEncode_injective h, fun D _ hj => hexEncode_isLowerHex D hj⟩

end Sys2Proof.Machine

/-! Proofs of the statements about a command's life (44_dispatch.md sections 1 and 2, 60_exceptions.md section 2): acceptance by
the checks in their order, completion, and the step that runs a command. -/

namespace Sys2Proof.Machine

/-! ### What an acceptance and a completion keep -/

theorem acceptance_keepsRest (i : Instr) (s : State) : KeepsRest s (acceptance i s) := by
  obtain ⟨hcmd, hlen, hwign, hcap, _, _, hmsg, hepoch, _, _, _, hprogram, hreads⟩ := acceptance_fields i s
  exact ⟨hcmd, hlen, hwign, hcap, msgByte_congr hmsg hepoch, hprogram, hreads⟩

theorem completion_keepsRest (i : Instr) (s : State) : KeepsRest s (completion i s) := by
  obtain ⟨hcmd, hlen, hwign, hcap, hmsg, hepoch, _, _, _, hprogram, hreads⟩ := completion_fields i s
  exact ⟨hcmd, hlen, hwign, hcap, msgByte_congr hmsg hepoch, hprogram, hreads⟩

/-! ### Acceptance (44_dispatch.md R222, R223) -/

/-- The message that the engine is started on is the message of the accepted command. -/
theorem message_acceptance (i : Instr) (s : State) : message (acceptance i s) = message (latch (opOf i) (algOf i) s) := by
  obtain ⟨_, _, _, _, _, _, hmsg, hepoch, _, _, hlen, _⟩ := acceptance_fields i s
  exact message_congr hlen fun a _ => msgByte_congr hmsg hepoch a

/-- A command that passes its checks is started. -/
theorem acceptance_of_passes {i : Instr} {s : State} (hp : PassesChecks i s) :
    acceptance i s = startCommand (beginEngine i (latch (opOf i) (algOf i) s)) := by
  rw [acceptance, (commandError_eq_none_iff i s).2 hp]

/-- A command that fails a check is latched and rejected with the error of that check. -/
theorem acceptance_of_error {i : Instr} {s : State} {e : CmdError} (he : commandError i s = some e) :
    acceptance i s = raiseError e (latch (opOf i) (algOf i) s) := by
  rw [acceptance, he]

/-- The SHA-256 engine's state at the start of a computation (41_sha256.md R135). -/
theorem Sha256Regs.start_fields (p : Bytes) (r : Sha256Regs) :
    (r.start p).hash = sha256IV ∧ (r.start p).blockIndex = 0 ∧ (r.start p).roundIndex = 0 := ⟨rfl, rfl, rfl⟩

/-- The SHA3-256 engine's state at the start of a computation (42_sha3_256.md R174). -/
theorem KeccakRegs.start_fields (p : Bytes) :
    (KeccakRegs.start p).lanes = xorBlock zeroLanes (block3 p 0) ∧ (KeccakRegs.start p).blockIndex = 0 ∧
    (KeccakRegs.start p).roundIndex = 0 := ⟨rfl, rfl, rfl⟩

/-- Which engine an accepted command runs, and the working states that it leaves: the engine it runs is started on the message,
and the other's state is kept (10_state.md R35, log 29). -/
theorem acceptance_engines {i : Instr} {s : State} (hp : PassesChecks i s) :
    (acceptance i s).sha =
      (if usesSha256 (acceptance i s) then s.sha.start (pad256 (message (acceptance i s))) else s.sha) ∧
    (acceptance i s).keccak =
      (if usesSha3_256 (acceptance i s) then KeccakRegs.start (pad3 (message (acceptance i s))) else s.keccak) := by
  rw [message_acceptance]
  obtain ⟨_, _, _, _, _, _, _, _, hop, halg, _⟩ := acceptance_fields i s
  unfold usesSha256 usesSha3_256
  rw [hop, halg, acceptance_of_passes hp]
  cases i with
  | digest srcv tag =>
    obtain ⟨_, _, rfl | rfl⟩ := hp
    · exact ⟨rfl, rfl⟩
    · exact ⟨rfl, rfl⟩
  | sha256 srcv => exact ⟨rfl, rfl⟩
  | sha3_256 srcv => exact ⟨rfl, rfl⟩
  | hexenc => exact ⟨rfl, rfl⟩

/-- Settles O22: the acceptance's flags and frame are those of `acceptance_flags` and `acceptance_fields`, and its engines those
of `acceptance_engines`. -/
theorem passingCommandIsAccepted : Obligations.PassingCommandIsAccepted := by
  intro i s hb hp
  obtain ⟨herr, hbusy, hdone⟩ := acceptance_flags i hb
  rw [(commandError_eq_none_iff i s).2 hp] at herr hbusy hdone
  obtain ⟨_, _, _, _, hdigest, hhex, _, _, hop, halg, hlen, _⟩ := acceptance_fields i s
  obtain ⟨hsha, hkeccak⟩ := acceptance_engines hp
  refine ⟨_, exec_idle i hb, hbusy, hdone, herr, latchedInstr_of_passes hp hop halg, hlen, hdigest, hhex,
    acceptance_keepsRest i s, fun hu => ?sha, fun hu => ?otherSha, fun hu => ?sha3, fun hu => ?otherSha3⟩
  case sha => rw [hsha, if_pos hu]; exact Sha256Regs.start_fields _ _
  case otherSha => rw [hsha, hu]; rfl
  case sha3 => rw [hkeccak, if_pos hu]; exact KeccakRegs.start_fields _
  case otherSha3 => rw [hkeccak, hu]; rfl

/-- Settles O23: a check that fails gives `commandError` its error, and taking it writes the latch, ERR and DONE only. -/
theorem failingCommandIsRejected : Obligations.FailingCommandIsRejected := by
  intro i s hb hp
  obtain ⟨e, he⟩ := Option.ne_none_iff_exists'.1 (mt (commandError_eq_none_iff i s).1 hp)
  have hkeeps := acceptance_keepsRest i s
  rw [acceptance_of_error he] at hkeeps
  refine ⟨_, exec_idle i hb, ?_⟩
  rw [acceptance_of_error he]
  refine ⟨hb, rfl, ?code, rfl, rfl, hkeeps, rfl, rfl⟩
  case code =>
    cases i with
    | digest srcv tag | sha256 srcv | sha3_256 srcv =>
      simp only [commandError, raiseError_err] at he ⊢
      split_ifs at he ⊢ <;> cases he <;> rfl
    | hexenc => exact absurd trivial hp

/-- The words that match a row, as the masks and patterns of R84 say it. -/
def LegalWord (c : Word) : Prop :=
  c &&& 0xFF00FEFF = 0x00000001 ∨ c &&& 0xFFFFFEFF = 0x00000002 ∨ c &&& 0xFFFFFEFF = 0x00000003 ∨ c = 0x00000004

theorem decode_illegal_iff_not_legalWord (c : Word) : decode c = .error .illegalCommand ↔ ¬LegalWord c := by
  have hfull : c &&& 0xFFFFFFFF#32 = c := BitVec.and_allOnes
  simp [decode_illegal_iff_rows, OpRow.holds, rowDigest, rowSha256, rowSha3_256, rowHexenc, LegalWord, hfull]

/-- A check that is made first gives its code where it fails, and else the checks behind it give theirs. -/
theorem code_of_check (p : Prop) [Decidable p] (e : CmdError) (rest : Option CmdError) :
    ((if p then some e else rest).map CmdError.code).getD 0 = if p then e.code else (rest.map CmdError.code).getD 0 := by
  split <;> rfl

/-- ERR after a legal word is accepted, from the word's fields: the checks 2 to 4 in their order (44_dispatch.md R223). -/
theorem commandError_code_of_decode {c : Word} {i : Instr} (hd : decode c = .ok i) (s : State) :
    ((commandError i s).map CmdError.code).getD 0 =
      if fieldOp c ≠ 4 ∧ fieldSrcv c = false then 1
      else if fieldOp c ≠ 4 ∧ s.msgcap.toNat < s.len.toNat then 4
      else if fieldOp c = 1 ∧ fieldAlg c ≠ 0 ∧ fieldAlg c ≠ 1 then 2
      else 0 := by
  obtain ⟨hop, -, hsrcv, -, halg, -⟩ := decode_carriesFields hd
  have hw := decode_wellFormed hd
  rw [hop, hsrcv, halg]
  cases i with
  | digest srcv tag =>
    have htag : tag % 256 = tag := Nat.mod_eq_of_lt (of_decide_eq_true hw)
    have hvalid : validTag tag = true ↔ ¬(BitVec.ofNat 8 tag ≠ 0 ∧ BitVec.ofNat 8 tag ≠ 1) := by
      rw [validTag_iff, not_and_or, not_not, not_not, ← BitVec.toNat_inj, ← BitVec.toNat_inj, BitVec.toNat_ofNat, htag]
      rfl
    simp only [commandError, hvalid, ite_not, code_of_check]
    simp [opOf, algOf, srcvOf, CmdError.code]
  | sha256 srcv | sha3_256 srcv =>
    simp only [commandError, code_of_check]
    simp [opOf, srcvOf, CmdError.code]
  | hexenc => rfl

/-- No error has the code 0, so the code tells whether the command was started (60_exceptions.md R250). -/
theorem flags_of_code (o : Option CmdError) :
    o.isNone = decide ((o.map CmdError.code).getD 0 = 0) ∧ o.isSome = decide ((o.map CmdError.code).getD 0 ≠ 0) := by
  rcases o with _ | e
  · exact ⟨rfl, rfl⟩
  · cases e <;> exact ⟨rfl, rfl⟩

/-- Settles O20: a word that matches no row is rejected with code 5, and a legal one takes its command's acceptance, whose flags
follow from `commandError`. -/
theorem acceptanceOfEveryWord : Obligations.AcceptanceOfEveryWord := by
  intro s off c hb hoff legal code
  have hwrite : busWrite off c s = accept c { s with cmd := c } := by simp [busWrite_cmd s c hoff, writeCmd, hb]
  rw [hwrite]
  rcases accept_cases c (s := { s with cmd := c }) hb with ⟨e, hd, ha⟩ | ⟨i, hd, ha⟩
  · obtain rfl : e = .illegalCommand := decode_error hd
    have hcode : code = 5 := if_pos ((decode_illegal_iff_not_legalWord c).1 hd)
    refine ⟨_, ha, rfl, rfl, rfl, rfl, hcode.symm, ?_, ?_, rfl, rfl⟩
    · rw [hcode]; exact hb
    · rw [hcode]; rfl
  · have hlegal : legal := by
      by_contra hnot
      cases hd.symm.trans ((decode_illegal_iff_not_legalWord c).2 hnot)
    have hcode : ((commandError i { s with cmd := c }).map CmdError.code).getD 0 = code := by
      rw [commandError_code_of_decode hd]
      exact (if_neg (not_not.2 hlegal)).symm
    obtain ⟨hcmd, _, _, _, hdigest, hhex, _, _, hop, halg, hlen, _⟩ := acceptance_fields i { s with cmd := c }
    obtain ⟨hfop, hfalg⟩ := decode_fields hd
    obtain ⟨herr, hbusy, hdone⟩ := acceptance_flags i (s := { s with cmd := c }) hb
    refine ⟨_, ha, hcmd, hop.trans hfop.symm, halg.trans hfalg.symm, hlen, herr.trans hcode, ?_, ?_, hdigest, hhex⟩
    · exact hbusy.trans (hcode ▸ (flags_of_code _).1)
    · exact hdone.trans (hcode ▸ (flags_of_code _).2)

/-! ### Completion (44_dispatch.md R224) -/

/-- The command in flight completes: the outputs that its completion computes, the flags, and the frame. -/
theorem exec_completes {i : Instr} {s : State} (hb : s.busy = true) (hi : latchedInstr s = some i) :
    ∃ t, exec i s = .next t ∧ t.digest = (completion i s).digest ∧ t.hex = (completion i s).hex ∧
      t.busy = false ∧ t.done = true ∧ t.err = s.err ∧ KeepsRest s t := by
  obtain ⟨_, _, _, _, _, _, hbusy, hdone, herr, _⟩ := completion_fields i s
  exact ⟨_, exec_inFlight i hb hi, rfl, rfl, hbusy, hdone, herr, completion_keepsRest i s⟩

/-- What the latch holds for each row of the completion's table. -/
theorem latchedInstr_digest_tag0 {s : State} (hop : s.opL = 1) (halg : s.algL = 0) :
    latchedInstr s = some (.digest true 0) := by simp [latchedInstr, hop, halg, validTag_iff]

theorem latchedInstr_digest_tag1 {s : State} (hop : s.opL = 1) (halg : s.algL = 1) :
    latchedInstr s = some (.digest true 1) := by simp [latchedInstr, hop, halg, validTag_iff]

theorem latchedInstr_sha256 {s : State} (hop : s.opL = 2) : latchedInstr s = some (.sha256 true) := by
  simp [latchedInstr, hop]

theorem latchedInstr_sha3_256 {s : State} (hop : s.opL = 3) : latchedInstr s = some (.sha3_256 true) := by
  simp [latchedInstr, hop]

theorem latchedInstr_hexenc {s : State} (hop : s.opL = 4) : latchedInstr s = some .hexenc := by
  simp [latchedInstr, hop]

/-- Settles O24: the completion of DIGEST puts the digest its tag names, and its hex characters. -/
theorem digestCompletes : Obligations.DigestCompletes := fun _ hb hop =>
  ⟨fun halg => exec_completes hb (latchedInstr_digest_tag0 hop halg),
    fun halg => exec_completes hb (latchedInstr_digest_tag1 hop halg)⟩

/-- Settles O25: the completion of an engine command puts its digest and leaves HEX. -/
theorem engineCommandsComplete : Obligations.EngineCommandsComplete := fun _ hb =>
  ⟨fun hop => exec_completes hb (latchedInstr_sha256 hop), fun hop => exec_completes hb (latchedInstr_sha3_256 hop)⟩

/-- Settles O26: the completion of HEXENC puts the encoding of DIGEST, character by character. -/
theorem hexencCompletes : Obligations.HexencCompletes := by
  intro s hb hop
  obtain ⟨t, ht, hdigest, hhex, hrest⟩ := exec_completes hb (latchedInstr_hexenc hop)
  refine ⟨t, ht, hdigest, fun j hj => ?_, hrest⟩
  rw [hhex]
  exact ⟨hexEncode_high s.digest hj, hexEncode_low s.digest hj⟩

/-- Settles O28: `exec_other`. -/
theorem otherCommandTurnedAway : Obligations.OtherCommandTurnedAway := fun i _ hb hi => exec_other i hb hi

/-! ### The step that runs a command (20_memory.md R61, R68) -/

/-- At the engine's turn, with no reset at the head of the program, the step is the engine's. -/
theorem step_engine {s : State} (hturn : engineTurn s = true) (hreset : ∀ rest, s.program ≠ .reset :: rest) :
    step s = engineStep s := by
  rcases step_cases s with ⟨rest, hp, _⟩ | ⟨_, hs⟩ | ⟨hidle, _⟩ | ⟨hidle, _⟩
  · exact absurd hp (hreset rest)
  · exact hs
  · cases hturn.symm.trans hidle
  · cases hturn.symm.trans hidle

/-- In IDLE it is never the engine's turn. -/
theorem engineTurn_idle {s : State} (hb : s.busy = false) : engineTurn s = false := by simp [engineTurn, hb]

/-- Settles O19: in IDLE the host's write reaches `accept`, and at its turn the engine runs what the latch holds. -/
theorem aStepRunsTheCommand : Obligations.AStepRunsTheCommand := by
  refine ⟨fun s off c rest i hp hoff hb hd => ?accept, fun s i hb hturn hreset hi => ?complete⟩
  case accept =>
    rw [step_host hp (by simp) (engineTurn_idle hb), hostStep, busWrite_cmd _ c hoff, writeCmd,
      if_neg (by simp [hb]), accept, hd]
    rfl
  case complete =>
    rw [step_engine ((engineTurn_iff s).2 ⟨hb, hturn⟩) hreset, engineStep, hi]

/-- Settles O27: the engine's step is `exec` of the command in flight, whose completion `exec_completes` describes. -/
theorem completionStep : Obligations.CompletionStep := by
  intro s hb hturn hreset
  have hcompletes {i : Instr} (hi : latchedInstr s = some i) :
      ∃ t, step s = .next t ∧ t.digest = (completion i s).digest ∧ t.hex = (completion i s).hex ∧
        t.busy = false ∧ t.done = true ∧ t.err = s.err := by
    obtain ⟨t, ht, hdigest, hhex, hbusy, hdone, herr, _⟩ := exec_completes hb hi
    exact ⟨t, (aStepRunsTheCommand.2 s i hb hturn hreset hi).trans ht, hdigest, hhex, hbusy, hdone, herr⟩
  exact ⟨fun hop halg => hcompletes (latchedInstr_digest_tag0 hop halg),
    fun hop halg => hcompletes (latchedInstr_digest_tag1 hop halg), fun hop => hcompletes (latchedInstr_sha256 hop),
    fun hop => hcompletes (latchedInstr_sha3_256 hop), fun hop => hcompletes (latchedInstr_hexenc hop)⟩

/-! ### DIGEST, or its engine and then HEXENC (44_dispatch.md section 2) -/

/-- A command that passes its checks runs to a completion with ERR = 0. -/
theorem completion_acceptance_flags {i : Instr} {s : State} (hb : s.busy = false) (hp : PassesChecks i s) :
    (completion i (acceptance i s)).busy = false ∧ (completion i (acceptance i s)).err = 0 := by
  obtain ⟨_, _, _, _, _, _, hbusy, _, herr, _⟩ := completion_fields i (acceptance i s)
  obtain ⟨haccepted, _, _⟩ := acceptance_flags i hb
  rw [(commandError_eq_none_iff i s).2 hp] at haccepted
  exact ⟨hbusy, herr.trans haccepted⟩

/-- The two ways agree for an engine command `j` that puts the digest of DIGEST's tag: both hash the same message, and HEXENC
encodes the digest that `j` left. -/
theorem facade_eq_engine_then_hexenc {s : State} {tag : Nat} {j : Instr} (hb : s.busy = false)
    (hfacade : PassesChecks (.digest true tag) s) (hengine : PassesChecks j s)
    (hj : ∀ u, (completion j u).digest = hashByTag tag (message u) ∧ (completion j u).hex = u.hex) :
    ∃ a b c d e f, exec (.digest true tag) s = .next a ∧ exec (.digest true tag) a = .next b ∧
      exec j s = .next c ∧ exec j c = .next d ∧ exec .hexenc d = .next e ∧ exec .hexenc e = .next f ∧
      b.digest = f.digest ∧ b.hex = f.hex ∧ b.err = 0 ∧ f.err = 0 ∧ d.hex = s.hex := by
  obtain ⟨ha, hfinish⟩ := exec_exec_of_passes hb hfacade
  obtain ⟨hc, hd⟩ := exec_exec_of_passes hb hengine
  obtain ⟨hidle, _⟩ := completion_acceptance_flags hb hengine
  obtain ⟨he, hf⟩ := exec_exec_of_passes (i := .hexenc) hidle trivial
  obtain ⟨hdigest, hhex⟩ := hj (acceptance j s)
  obtain ⟨_, _, _, _, _, hkept, _⟩ := acceptance_fields j s
  have hm : message (acceptance j s) = message (acceptance (.digest true tag) s) := by
    rw [message_acceptance, message_acceptance]
    rfl
  rw [hm] at hdigest
  exact ⟨_, _, _, _, _, _, ha, hfinish, hc, hd, he, hf, hdigest.symm, congrArg hexEncode hdigest.symm,
    (completion_acceptance_flags hb hfacade).2, (completion_acceptance_flags (i := .hexenc) hidle trivial).2,
    hhex.trans hkept⟩

/-- Settles O35: SHA256 puts the digest of tag 0, and SHA3_256 that of tag 1. -/
theorem facadeEqualsEngineThenHexenc : Obligations.FacadeEqualsEngineThenHexenc := fun _ hb hlen =>
  ⟨facade_eq_engine_then_hexenc hb ⟨rfl, hlen, .inl rfl⟩ ⟨rfl, hlen⟩ fun _ => ⟨rfl, rfl⟩,
    facade_eq_engine_then_hexenc hb ⟨rfl, hlen, .inr rfl⟩ ⟨rfl, hlen⟩ fun _ => ⟨rfl, rfl⟩⟩

end Sys2Proof.Machine

/-! Proofs of the statements about what a step can change (10_state.md sections 2 and 5, 44_dispatch.md section 1): WIGN, BUSY,
the outputs, and everything that is frozen while BUSY = 1. -/

namespace Sys2Proof.Machine

/-! ### A bus write, by the phase -/

/-- While BUSY = 1 a bus write changes WIGN at most. -/
theorem busWrite_busy {off data : Word} {s t : State} (hb : s.busy = true) (h : busWrite off data s = .next t) :
    ∃ wign, t = { s with wign := wign } := by
  rcases busWrite_cases off data s with
    ⟨_, hw⟩ | hw | ⟨_, hw⟩ | ⟨hidle, _⟩ | ⟨hidle, _⟩ | ⟨hidle, _⟩ | ⟨hidle, _⟩ | ⟨hidle, _⟩
  · cases h.symm.trans hw
    exact ⟨true, rfl⟩
  · cases h.symm.trans hw
    exact ⟨s.wign, rfl⟩
  · cases h.symm.trans hw
    unfold writeStatus
    split
    · exact ⟨false, rfl⟩
    · exact ⟨s.wign, rfl⟩
  all_goals cases hb.symm.trans hidle

/-- In IDLE a bus write does what its register says (20_memory.md R60). -/
theorem busWrite_idle {off data : Word} {s t : State} (hb : s.busy = false) (h : busWrite off data s = .next t) :
    t = s ∨ (targetIn s off = .status ∧ t = writeStatus data s) ∨
    (targetIn s off = .cmd ∧ ∃ e, decode data = .error e ∧ t = rejectWord data e { s with cmd := data }) ∨
    (targetIn s off = .cmd ∧ ∃ i, decode data = .ok i ∧ t = acceptance i { s with cmd := data }) ∨
    (targetIn s off = .len ∧ t = { s with len := data }) ∨
    (∃ k, targetIn s off = .digest k ∧ t = { s with digest := putDigestWord s.digest k data }) ∨
    ∃ k, targetIn s off = .msg k ∧ t = { s with msg := Memory.writeBytes s.msg (4 * k) (le32Bytes data) } := by
  rcases busWrite_cases off data s with
    ⟨hbusy, _⟩ | hw | ⟨ht, hw⟩ | ⟨_, ht, e, hd, hw⟩ | ⟨_, ht, i, hd, hw⟩ | ⟨_, ht, hw⟩ | ⟨_, k, ht, hw⟩ | ⟨_, k, ht, hw⟩
  · cases hb.symm.trans hbusy
  all_goals cases h.symm.trans hw
  · exact .inl rfl
  · exact .inr (.inl ⟨ht, rfl⟩)
  · exact .inr (.inr (.inl ⟨ht, e, hd, rfl⟩))
  · exact .inr (.inr (.inr (.inl ⟨ht, i, hd, rfl⟩)))
  · exact .inr (.inr (.inr (.inr (.inl ⟨ht, rfl⟩))))
  · exact .inr (.inr (.inr (.inr (.inr (.inl ⟨k, ht, rfl⟩)))))
  · exact .inr (.inr (.inr (.inr (.inr (.inr ⟨k, ht, rfl⟩)))))

/-! ### WIGN (10_state.md R29) -/

/-- The registers whose writes are dropped, and set WIGN, while BUSY = 1. -/
def Guarded (r : Target) : Prop := r = .cmd ∨ r = .len ∨ (∃ k, r = .digest k) ∨ ∃ k, r = .msg k

theorem busWrite_guarded {off data : Word} {s : State} (hb : s.busy = true) (hg : Guarded (targetIn s off)) :
    busWrite off data s = .next (setWign s) := by
  unfold busWrite
  rcases hg with ht | ht | ⟨k, ht⟩ | ⟨k, ht⟩
  · simp [ht, writeCmd, hb]
  · simp [ht, writeLen, writeIfIdle_busy _ hb]
  · simp [ht, writeDigest, writeIfIdle_busy _ hb]
  · simp [ht, writeMsg, writeIfIdle_busy _ hb]

/-- Only a dropped write and a STATUS write touch WIGN. -/
theorem busWrite_wign {off data : Word} {s t : State} (h : busWrite off data s = .next t) :
    (s.busy = true ∧ Guarded (targetIn s off) ∧ t = setWign s) ∨
    (targetIn s off = .status ∧ t = writeStatus data s) ∨ t.wign = s.wign := by
  rcases Bool.eq_false_or_eq_true s.busy with hb | hb
  · by_cases hg : Guarded (targetIn s off)
    · exact .inl ⟨hb, hg, Host.Outcome.next.inj (h.symm.trans (busWrite_guarded hb hg))⟩
    · unfold busWrite at h
      cases ht : targetIn s off with
      | cmd => exact absurd (.inl ht) hg
      | len => exact absurd (.inr (.inl ht)) hg
      | digest k => exact absurd (.inr (.inr (.inl ⟨k, ht⟩))) hg
      | msg k => exact absurd (.inr (.inr (.inr ⟨k, ht⟩))) hg
      | status =>
        rw [ht] at h
        exact .inr (.inl ⟨rfl, (Host.Outcome.next.inj h).symm⟩)
      | msgcap | hex k | unmapped =>
        rw [ht] at h
        exact .inr (.inr (congrArg State.wign (Host.Outcome.next.inj h).symm))
  · rcases busWrite_idle hb h with rfl | hstatus | ⟨_, e, _, rfl⟩ | ⟨_, i, _, rfl⟩ | ⟨_, rfl⟩ | ⟨k, _, rfl⟩ | ⟨k, _, rfl⟩
    · exact .inr (.inr rfl)
    · exact .inr (.inl hstatus)
    · exact .inr (.inr rfl)
    · obtain ⟨_, _, hwign, _⟩ := acceptance_fields i { s with cmd := data }
      exact .inr (.inr hwign)
    · exact .inr (.inr rfl)
    · exact .inr (.inr rfl)
    · exact .inr (.inr rfl)

/-- Where it is not the engine's turn, a host event is next in IDLE or while LATENCY lasts. -/
theorem engineTurn_eq_false_iff {s : State} {ev : HostEvent} {rest : List HostEvent} (hp : s.program = ev :: rest) :
    engineTurn s = false ↔ s.busy = false ∨ s.wait ≠ 0 := by
  cases hb : s.busy <;> simp [engineTurn, hp, hb]

/-- Settles O18: of the events of a step only a bus write and a reset touch WIGN, and of the bus writes those of
`busWrite_wign`. -/
theorem wignChangesOnlyByRule : Obligations.WignChangesOnlyByRule := by
  refine ⟨fun s off data hb hg => busWrite_guarded hb hg, fun s t h => ?_⟩
  have hkept (he : t.wign = s.wign) {P Q : Prop} :
      (s.wign = false → t.wign = true → P) ∧ (s.wign = true → t.wign = false → Q) := by
    rw [he]
    exact ⟨fun h0 h1 => absurd (h0.symm.trans h1) (by decide), fun h1 h0 => absurd (h0.symm.trans h1) (by decide)⟩
  rcases step_next h with ⟨rest, hp, rfl⟩ | ⟨_, i, _, rfl⟩ | ⟨_, _, rfl⟩ | ⟨hturn, off, data, rest, hp, hw⟩ |
    ⟨_, ev, rest, v, program, _, _, rfl⟩
  · exact ⟨fun _ hset => absurd hset (by simp), fun _ _ => .inr ⟨rest, hp⟩⟩
  · obtain ⟨_, _, hwign, _⟩ := completion_fields i s
    exact hkept hwign
  · exact hkept rfl
  · have hfree := (engineTurn_eq_false_iff hp).1 hturn
    rcases busWrite_wign hw with ⟨hb, hg, rfl⟩ | ⟨hstatus, rfl⟩ | hwign
    · have hwait : s.wait ≠ 0 := hfree.resolve_left (by rw [show s.busy = true from hb]; decide)
      exact ⟨fun _ _ => ⟨hb, hwait, off, data, rest, hp, hg⟩, fun _ hclear => absurd hclear (by simp)⟩
    · rw [writeStatus_wign]
      refine ⟨fun h0 h1 => absurd h1 (by simp [h0]), fun h1 h0 => .inl ⟨hfree, off, data, rest, hp, hstatus, ?_⟩⟩
      simpa [h1] using h0
    · exact hkept hwign
  · exact hkept rfl

/-! ### BUSY (10_state.md R27) -/

/-- A bus write changes BUSY only where it starts a command. -/
theorem busWrite_sets_busy {off data : Word} {s t : State} (hb : s.busy = false) (h : busWrite off data s = .next t)
    (hset : t.busy = true) : targetIn s off = .cmd ∧ ∃ i, decode data = .ok i ∧ PassesChecks i s := by
  have hidle (he : t.busy = s.busy) : False := absurd (he.symm.trans hset) (by simp [hb])
  rcases busWrite_idle hb h with rfl | ⟨_, rfl⟩ | ⟨_, e, _, rfl⟩ | ⟨ht, i, hd, rfl⟩ | ⟨_, rfl⟩ | ⟨k, _, rfl⟩ | ⟨k, _, rfl⟩
  · exact (hidle rfl).elim
  · exact (hidle (writeStatus_busy _ _)).elim
  · exact (hidle rfl).elim
  · obtain ⟨_, hbusy, _⟩ := acceptance_flags i (s := { s with cmd := data }) hb
    rw [hbusy, commandError_cmd, Option.isNone_iff_eq_none, commandError_eq_none_iff] at hset
    exact ⟨ht, i, hd, hset⟩
  · exact (hidle rfl).elim
  · exact (hidle rfl).elim
  · exact (hidle rfl).elim

/-- What a step does while BUSY = 1: a reset, the completion, or a host event that changes WIGN and the host's part only. -/
theorem step_busy {s t : State} (hb : s.busy = true) (h : step s = .next t) :
    (∃ rest, s.program = .reset :: rest ∧ t = resetBlock { s with program := rest }) ∨
    (engineTurn s = true ∧ ∃ i, latchedInstr s = some i ∧ t = completion i s) ∨
    (engineTurn s = false ∧ ∃ wign program hostReads, program ⊆ s.program ∧
      t = { s with wign := wign, program := program, hostReads := hostReads, wait := s.wait - 1 }) := by
  rcases step_next h with hreset | hcompletion | ⟨hturn, hp, rfl⟩ | ⟨hturn, off, data, rest, hp, hw⟩ |
    ⟨hturn, ev, rest, v, program, hp, hprogram, rfl⟩
  · exact .inl hreset
  · exact .inr (.inl hcompletion)
  · exact absurd ((engineTurn_iff t).2 ⟨hb, .inl hp⟩) (by simp [hturn])
  · obtain ⟨wign, rfl⟩ := busWrite_busy (s := takeEvent rest s) hb hw
    exact .inr (.inr ⟨hturn, wign, rest, s.hostReads, by simp [hp], rfl⟩)
  · refine .inr (.inr ⟨hturn, s.wign, program, v :: s.hostReads, ?_, rfl⟩)
    rcases hprogram with rfl | rfl <;> simp [hp]

/-- Settles O29: in IDLE BUSY is set by `busWrite_sets_busy`, and while BUSY = 1 a host event leaves it. -/
theorem busyChangesOnlyByRule : Obligations.BusyChangesOnlyByRule := by
  refine fun s t h => ⟨fun hb hset => ?set, fun hb hclear => ?clear⟩
  case set =>
    have hidle (he : t.busy = s.busy) : False := absurd (he.symm.trans hset) (by simp [hb])
    rcases step_next h with ⟨rest, _, rfl⟩ | ⟨hturn, _⟩ | ⟨_, _, rfl⟩ | ⟨_, off, data, rest, hp, hw⟩ |
      ⟨_, ev, rest, v, program, _, _, rfl⟩
    · cases hset
    · cases hb.symm.trans (engineTurn_busy hturn)
    · exact (hidle rfl).elim
    · obtain ⟨ht, i, hd, hpass⟩ := busWrite_sets_busy (s := takeEvent rest s) hb hw hset
      exact ⟨off, data, rest, i, hp, targetIn_cmd.1 ht, hd, by cases i <;> exact hpass⟩
    · exact (hidle rfl).elim
  case clear =>
    rcases step_busy hb h with ⟨rest, hp, _⟩ | ⟨hturn, _⟩ | ⟨_, wign, program, reads, _, rfl⟩
    · exact .inr ⟨rest, hp⟩
    · exact .inl ((engineTurn_iff s).1 hturn).2
    · cases hb.symm.trans hclear

/-! ### What is frozen, and what changes the outputs -/

/-- Settles O30: a step that leaves BUSY at 1 is no reset and no completion, so it is a host event that `step_busy`
describes. -/
theorem frozenWhileBusy : Obligations.FrozenWhileBusy := by
  intro s t h hb hbt
  rcases step_busy hb h with ⟨rest, _, rfl⟩ | ⟨_, i, _, rfl⟩ | ⟨_, wign, program, reads, _, rfl⟩
  · cases hbt
  · obtain ⟨_, _, _, _, _, _, hbusy, _⟩ := completion_fields i s
    cases hbusy.symm.trans hbt
  · exact ⟨rfl, rfl, rfl, rfl, fun _ => rfl, rfl, rfl, rfl, rfl, rfl⟩

/-- In IDLE a bus write leaves HEX, and leaves DIGEST unless it is one of its words that is written. -/
theorem busWrite_idle_outputs {off data : Word} {s t : State} (hb : s.busy = false) (h : busWrite off data s = .next t) :
    t.hex = s.hex ∧ (t.digest ≠ s.digest → ∃ k, targetIn s off = .digest k) := by
  rcases busWrite_idle hb h with rfl | ⟨_, rfl⟩ | ⟨_, e, _, rfl⟩ | ⟨_, i, _, rfl⟩ | ⟨_, rfl⟩ | ⟨k, ht, rfl⟩ | ⟨k, _, rfl⟩
  · exact ⟨rfl, fun hne => absurd rfl hne⟩
  · exact ⟨writeStatus_hex _ _, fun hne => absurd (writeStatus_digest _ _) hne⟩
  · exact ⟨rfl, fun hne => absurd rfl hne⟩
  · obtain ⟨_, _, _, _, hdigest, hhex, _⟩ := acceptance_fields i { s with cmd := data }
    exact ⟨hhex, fun hne => absurd hdigest hne⟩
  · exact ⟨rfl, fun hne => absurd rfl hne⟩
  · exact ⟨rfl, fun _ => ⟨k, ht⟩⟩
  · exact ⟨rfl, fun hne => absurd rfl hne⟩

/-- The completions that write HEX, and those that write DIGEST (44_dispatch.md R224). -/
theorem completion_changes {i : Instr} {s : State} (hi : latchedInstr s = some i) :
    ((completion i s).hex ≠ s.hex → s.opL = 1 ∨ s.opL = 4) ∧
    ((completion i s).digest ≠ s.digest → s.opL = 1 ∨ s.opL = 2 ∨ s.opL = 3) := by
  rcases latchedInstr_cases hi with ⟨hop, _, rfl⟩ | ⟨hop, rfl⟩ | ⟨hop, rfl⟩ | ⟨hop, rfl⟩
  · exact ⟨fun _ => .inl hop, fun _ => .inl hop⟩
  · exact ⟨fun hne => absurd rfl hne, fun _ => .inr (.inl hop)⟩
  · exact ⟨fun hne => absurd rfl hne, fun _ => .inr (.inr hop)⟩
  · exact ⟨fun _ => .inr hop, fun hne => absurd rfl hne⟩

/-- Settles O31: while BUSY = 1 the outputs change at the completion, by `completion_changes`, and in IDLE by a bus write, by
`busWrite_idle_outputs`; a reset may change both. -/
theorem outputsChangeOnlyByRule : Obligations.OutputsChangeOnlyByRule := by
  intro s t h
  rcases step_next h with ⟨rest, hp, rfl⟩ | ⟨hturn, i, hi, rfl⟩ | ⟨_, _, rfl⟩ | ⟨_, off, data, rest, hp, hw⟩ |
    ⟨_, ev, rest, v, program, _, _, rfl⟩
  · exact ⟨fun _ => .inl ⟨rest, hp⟩, fun _ => .inl ⟨rest, hp⟩⟩
  · obtain ⟨hhex, hdigest⟩ := completion_changes hi
    obtain ⟨_, _, _, _, _, _, hbusy, _⟩ := completion_fields i s
    have hb := engineTurn_busy hturn
    exact ⟨fun hne => .inr ⟨hb, hbusy, hhex hne⟩, fun hne => .inr (.inl ⟨hb, hbusy, hdigest hne⟩)⟩
  · exact ⟨fun hne => absurd rfl hne, fun hne => absurd rfl hne⟩
  · rcases Bool.eq_false_or_eq_true s.busy with hb | hb
    · obtain ⟨wign, rfl⟩ := busWrite_busy (s := takeEvent rest s) hb hw
      exact ⟨fun hne => absurd rfl hne, fun hne => absurd rfl hne⟩
    · obtain ⟨hhex, hdigest⟩ := busWrite_idle_outputs (s := takeEvent rest s) hb hw
      refine ⟨fun hne => absurd hhex hne, fun hne => .inr (.inr ⟨hb, off, data, rest, ?_⟩)⟩
      obtain ⟨k, ht⟩ := hdigest hne
      exact ⟨k, hp, ht⟩
  · exact ⟨fun hne => absurd rfl hne, fun hne => absurd rfl hne⟩

end Sys2Proof.Machine

/-! Proofs of the statements about the invariant (10_state.md sections 2 to 5): it holds after reset, every step keeps it, no
step stops from it, and a command in flight runs to its result under every LATENCY. -/

namespace Sys2Proof.Machine

/-! ### The reset state (10_state.md R42) -/

/-- Every value that MSG_BUF_BYTES can have is admissible (00_scope.md R5). -/
theorem capAdmissible_msgBufBytes : capAdmissible (BitVec.ofNat 32 Config.msgBufBytes).toNat := by
  rw [BitVec.toNat_ofNat, capAdmissible, Config.msgBufBytes]
  omega

/-- Settles O38: each clause holds of the reset values, and MSG_BUF_BYTES is admissible. -/
theorem invariantHoldsAtReset : Obligations.InvariantHoldsAtReset :=
  ⟨capAdmissible_msgBufBytes, .inl rfl, .inl rfl, ⟨Memory.reset_wf, rfl⟩, fun hb => (by cases hb),
    fun _ _ => ⟨rfl, rfl, rfl⟩⟩

/-! ### Each operation keeps the invariant -/

/-- The clauses that hold in either phase. -/
def BaseLegal (s : State) : Prop := capAdmissible s.msgcap.toNat ∧ errLegal s.err ∧ hexLegal s.hex ∧ msgLegal s

theorem State.Inv.base {s : State} (h : s.Inv) : BaseLegal s := by
  obtain ⟨hcap, herr, hhex, hmsg, _⟩ := h
  exact ⟨hcap, herr, hhex, hmsg⟩

/-- With BUSY = 1 the latch must be right. -/
theorem BaseLegal.inv_of_busy {s : State} (h : BaseLegal s) (hb : s.busy = true) (hlatch : busyLegal s) : s.Inv := by
  obtain ⟨hcap, herr, hhex, hmsg⟩ := h
  exact ⟨hcap, herr, hhex, hmsg, fun _ => hlatch, fun hidle => (by cases hb.symm.trans hidle)⟩

/-- In IDLE only a state before the first command must be fresh. -/
theorem BaseLegal.inv_of_idle {s : State} (h : BaseLegal s) (hb : s.busy = false) (hfresh : s.done = false → freshLegal s) :
    s.Inv := by
  obtain ⟨hcap, herr, hhex, hmsg⟩ := h
  exact ⟨hcap, herr, hhex, hmsg, fun hbusy => (by cases hb.symm.trans hbusy), fun _ => hfresh⟩

/-- With BUSY = 0 and DONE = 1 nothing is in flight and nothing is fresh. -/
theorem BaseLegal.inv_of_done {s : State} (h : BaseLegal s) (hb : s.busy = false) (hd : s.done = true) : s.Inv :=
  h.inv_of_idle hb fun hfresh => (by cases hd.symm.trans hfresh)

theorem errLegal_code (e : CmdError) (he : e ≠ .alreadyFinalized) : errLegal e.code := by
  unfold errLegal
  cases e <;> simp [CmdError.code] at he ⊢

theorem commandError_ne_alreadyFinalized {i : Instr} {s : State} {e : CmdError} (h : commandError i s = some e) :
    e ≠ .alreadyFinalized := by
  rintro rfl
  cases i with
  | digest srcv tag | sha256 srcv | sha3_256 srcv =>
    simp only [commandError] at h
    split_ifs at h <;> cases h
  | hexenc => cases h

/-- Taking an error in IDLE ends with DONE = 1. -/
theorem BaseLegal.inv_rejected {s : State} (h : BaseLegal s) (hb : s.busy = false) (op : BitVec 4) (alg : BitVec 8)
    {e : CmdError} (he : e ≠ .alreadyFinalized) : (raiseError e (latch op alg s)).Inv := by
  obtain ⟨hcap, _, hhex, hmsg⟩ := h
  exact BaseLegal.inv_of_done ⟨hcap, errLegal_code e he, hhex, hmsg⟩ hb rfl

/-- A message that passed the range check lies inside the buffer. -/
theorem len_le_of_passes {i : Instr} {s : State} (hp : PassesChecks i s) (hop : opOf i ≠ 4) : s.len.toNat ≤ s.msgcap.toNat := by
  cases i with
  | digest srcv tag => exact hp.2.1
  | sha256 srcv | sha3_256 srcv => exact hp.2
  | hexenc => exact absurd rfl hop

/-- Acceptance of the word in CMD: it is rejected, or the latch holds its command. -/
theorem BaseLegal.inv_acceptance {i : Instr} {s : State} (h : BaseLegal s) (hb : s.busy = false) (hd : decode s.cmd = .ok i) :
    (acceptance i s).Inv := by
  cases he : commandError i s with
  | some e =>
    rw [acceptance_of_error he]
    exact h.inv_rejected hb _ _ (commandError_ne_alreadyFinalized he)
  | none =>
    have hp := (commandError_eq_none_iff i s).1 he
    obtain ⟨hcap, _, hhex, hmsg⟩ := h
    obtain ⟨hcmd, hlen, _, hcap', _, hhex', hmsg', _, hop, halg, hlenL, _⟩ := acceptance_fields i s
    obtain ⟨herr, hbusy, hdone⟩ := acceptance_flags i hb
    rw [he] at herr hbusy hdone
    obtain ⟨hfop, hfalg⟩ := decode_fields hd
    refine BaseLegal.inv_of_busy ⟨hcap' ▸ hcap, .inl herr, hhex' ▸ hhex, ?msg⟩ hbusy
      ⟨hdone, herr, ?op, ?alg, hlenL.trans hlen.symm, ⟨i, latchedInstr_of_passes hp hop halg, hcmd ▸ hd⟩, fun hne => ?len⟩
    case msg => rw [msgLegal, hmsg', hcap']; exact hmsg
    case op => rw [hop, hcmd, hfop]
    case alg => rw [halg, hcmd, hfalg]
    case len => rw [hlenL, hcap']; exact len_le_of_passes hp (hop ▸ hne)

/-- HEX after a completion is the old one or an encoding, which is lowercase hex. -/
theorem hexLegal_completion (i : Instr) {s : State} (h : hexLegal s.hex) : hexLegal (completion i s).hex := by
  cases i with
  | digest srcv tag => exact .inr fun j hj => hexEncode_isLowerHex _ hj
  | sha256 srcv | sha3_256 srcv => exact h
  | hexenc => exact .inr fun j hj => hexEncode_isLowerHex _ hj

theorem BaseLegal.inv_completion (i : Instr) {s : State} (h : BaseLegal s) : (completion i s).Inv := by
  obtain ⟨hcap, herr, hhex, hmsg⟩ := h
  obtain ⟨_, _, _, hcap', hmsg', _, hbusy, hdone, herr', _⟩ := completion_fields i s
  refine BaseLegal.inv_of_done ⟨hcap' ▸ hcap, herr' ▸ herr, hexLegal_completion i hhex, ?_⟩ hbusy hdone
  rw [msgLegal, hmsg', hcap']
  exact hmsg

theorem State.Inv.resetBlock {s : State} (h : s.Inv) : (Machine.resetBlock s).Inv := by
  obtain ⟨hcap, _⟩ := h
  exact BaseLegal.inv_of_idle ⟨hcap, .inl rfl, .inl rfl, ⟨rfl, rfl⟩⟩ rfl fun _ => ⟨rfl, rfl, rfl⟩

/-- A word written to MSG stays inside the buffer. -/
theorem msgLegal_writeWord {s : State} (h : msgLegal s) {k : Nat} (hk : k < s.msgcap.toNat / 4) (data : Word) :
    msgLegal { s with msg := Memory.writeBytes s.msg (4 * k) (le32Bytes data) } := by
  obtain ⟨hwf, hbelow⟩ := h
  refine ⟨Memory.writeBytes_wf _ _ _ hwf, Memory.writeBytes_below _ _ _ ?_ hbelow⟩
  change 4 * k + 4 ≤ s.msgcap.toNat
  omega

/-- A bus write in IDLE keeps the invariant. -/
theorem State.Inv.busWrite_idle {off data : Word} {s t : State} (h : s.Inv) (hb : s.busy = false)
    (hw : busWrite off data s = .next t) : t.Inv := by
  have hfresh : s.done = false → freshLegal s := by
    obtain ⟨_, _, _, _, _, hfresh⟩ := h
    exact hfresh hb
  rcases Machine.busWrite_idle hb hw with rfl | ⟨_, rfl⟩ | ⟨_, e, hd, rfl⟩ | ⟨_, i, hd, rfl⟩ | ⟨_, rfl⟩ | ⟨k, _, rfl⟩ |
    ⟨k, ht, rfl⟩
  · exact h
  · unfold writeStatus
    split <;> exact h
  · exact BaseLegal.inv_rejected (s := { s with cmd := data }) h.base hb _ _ (by rw [decode_error hd]; decide)
  · exact BaseLegal.inv_acceptance (s := { s with cmd := data }) h.base hb hd
  · exact BaseLegal.inv_of_idle (s := { s with len := data }) h.base hb hfresh
  · exact BaseLegal.inv_of_idle (s := { s with digest := _ }) h.base hb hfresh
  · obtain ⟨hcap, herr, hhex, hmsg⟩ := h.base
    exact BaseLegal.inv_of_idle ⟨hcap, herr, hhex, msgLegal_writeWord hmsg (target_msg ht) data⟩ hb hfresh

/-- Settles O39: by the cases of a step. A host event that is no write, and a write while BUSY = 1, change no field that the
invariant speaks of. -/
theorem stepKeepsInvariant : Obligations.StepKeepsInvariant := by
  intro s t h hs
  rcases step_next hs with ⟨rest, _, rfl⟩ | ⟨_, i, _, rfl⟩ | ⟨_, _, rfl⟩ | ⟨_, off, data, rest, _, hw⟩ |
    ⟨_, ev, rest, v, program, _, _, rfl⟩
  · exact State.Inv.resetBlock (s := { s with program := rest }) h
  · exact h.base.inv_completion i
  · exact h
  · have htaken : (takeEvent rest s).Inv := h
    rcases Bool.eq_false_or_eq_true s.busy with hb | hb
    · obtain ⟨wign, rfl⟩ := busWrite_busy (s := takeEvent rest s) hb hw
      exact h
    · exact htaken.busWrite_idle hb hw
  · exact h

/-! ### No step stops (60_exceptions.md section 1) -/

/-- While BUSY = 1 the latch holds a command (10_state.md R36). -/
theorem State.Inv.latched {s : State} (h : s.Inv) (hb : s.busy = true) : ∃ i, latchedInstr s = some i := by
  obtain ⟨_, _, _, _, hbusy, _⟩ := h
  obtain ⟨_, _, _, _, _, ⟨i, hi, _⟩, _⟩ := hbusy hb
  exact ⟨i, hi⟩

/-- Settles O40: the only stop is the engine's, on a latch that holds no command. -/
theorem noStepStops : Obligations.NoStepStops := by
  intro s h
  rcases step_cases s with ⟨rest, _, hs⟩ | ⟨hturn, hs⟩ | ⟨_, _, hs⟩ | ⟨_, ev, rest, _, hr, hs⟩
  · exact ⟨_, hs⟩
  · have hb := engineTurn_busy hturn
    obtain ⟨i, hi⟩ := h.latched hb
    exact ⟨_, hs.trans (by rw [engineStep, hi]; exact exec_inFlight i hb hi)⟩
  · exact ⟨_, hs⟩
  · rcases hostStep_cases ev (takeEvent rest s) hr with ⟨off, data, rfl, hw⟩ | ⟨v, program, _, hw⟩
    · obtain ⟨t, ht⟩ := busWrite_next off data (takeEvent rest s)
      exact ⟨t, hs.trans (hw.trans ht)⟩
    · exact ⟨_, hs.trans hw⟩

/-! ### A command in flight runs to its result (44_dispatch.md R225, 70_reset_and_hazards.md section 4) -/

/-- At its turn the engine completes the command in flight. -/
theorem step_completion {i : Instr} {s : State} (hturn : engineTurn s = true) (hi : latchedInstr s = some i)
    (hreset : .reset ∉ s.program) : step s = .next (completion i s) := by
  have hhead (rest : List HostEvent) : s.program ≠ .reset :: rest := fun hp => hreset (by simp [hp])
  rw [step_engine hturn hhead, engineStep, hi]
  exact exec_inFlight i (engineTurn_busy hturn) hi

theorem steps_completion {i : Instr} {s : State} (hturn : engineTurn s = true) (hi : latchedInstr s = some i)
    (hreset : .reset ∉ s.program) : Steps 1 s (completion i s) :=
  .tail (step_completion hturn hi hreset) (.refl _)

/-- By induction on the host steps that may still fall: each changes WIGN and the host's part only, and then the command in
flight completes. -/
theorem runs_to_completion {n : Nat} {i : Instr} {s : State} (hwait : s.wait = n) (h : s.Inv) (hb : s.busy = true)
    (hi : latchedInstr s = some i) (hreset : .reset ∉ s.program) :
    ∃ k wign program hostReads wait, k ≤ n + 1 ∧
      Steps k s (completion i { s with wign := wign, program := program, hostReads := hostReads, wait := wait }) := by
  induction n generalizing s with
  | zero => exact ⟨1, s.wign, s.program, s.hostReads, s.wait, by omega,
      steps_completion ((engineTurn_iff s).2 ⟨hb, .inr hwait⟩) hi hreset⟩
  | succ n ih =>
    rcases Bool.eq_false_or_eq_true (engineTurn s) with hturn | hturn
    · exact ⟨1, s.wign, s.program, s.hostReads, s.wait, by omega, steps_completion hturn hi hreset⟩
    · obtain ⟨t, ht⟩ := noStepStops s h
      have hinv : t.Inv := stepKeepsInvariant s t h ht
      rcases step_busy hb ht with ⟨rest, hp, _⟩ | ⟨hturn', _⟩ | ⟨_, wign, program, reads, hsub, rfl⟩
      · exact absurd (by simp [hp]) hreset
      · cases hturn.symm.trans hturn'
      · obtain ⟨k, wign', program', reads', wait', hk, hsteps⟩ :=
          ih (by simp [hwait]) hinv hb hi fun hmem => hreset (hsub hmem)
        exact ⟨k + 1, wign', program', reads', wait', by omega, .tail ht hsteps⟩

/-- Settles O34: `runs_to_completion`, since the completion's outputs do not depend on WIGN and on the host's part. -/
theorem commandRunsToItsResult : Obligations.CommandRunsToItsResult := by
  intro s i h hb hi hreset
  obtain ⟨k, wign, program, hostReads, wait, hk, hsteps⟩ := runs_to_completion rfl h hb hi hreset
  obtain ⟨hcmd, hlen, _, _, hmsg, hepoch, hbusy, hdone, herr, _⟩ :=
    completion_fields i { s with wign := wign, program := program, hostReads := hostReads, wait := wait }
  obtain ⟨_, _, _, _, hlatch, _⟩ := h
  obtain ⟨_, hnoErr, _⟩ := hlatch hb
  refine ⟨k, _, hk, hsteps, hbusy, hdone, herr.trans hnoErr, ?outputs, hcmd, hlen, fun a => msgByte_congr hmsg hepoch a⟩
  case outputs => cases i <;> exact ⟨rfl, rfl⟩

end Sys2Proof.Machine

/-! Proofs of the remaining statements about the bus, reset, POLL and several instances (20_memory.md sections 2 and 4,
10_state.md section 4, 70_reset_and_hazards.md section 1, 30_encoding.md section 4, 60_exceptions.md R272). -/

namespace Sys2Proof.Machine

/-! ### A written word reads back (20_memory.md R55, R62 to R65) -/

/-- A word is its four bytes, least significant first (00_scope.md R10). -/
theorem le32_byteOf (w : Word) : le32 (byteOf w 0) (byteOf w 1) (byteOf w 2) (byteOf w 3) = w := by
  refine BitVec.eq_of_getLsbD_eq fun i hi => ?_
  interval_cases i <;> simp [le32, byteOf]

theorem digestWord_putDigestWord (s : State) {k : Nat} (hk : k < 8) (data : Word) :
    digestWord { s with digest := putDigestWord s.digest k data } k = data := by
  have hbyte {i : Nat} (hi : i < 4) : nth (putDigestWord s.digest k data) (4 * k + i) = byteOf data i :=
    nth_putDigestWord_same s.digest data hk hi
  have hfirst : nth (putDigestWord s.digest k data) (4 * k) = byteOf data 0 := hbyte (i := 0) (by decide)
  simp (disch := decide) only [digestWord, hfirst, hbyte, le32_byteOf]

theorem msgWord_writeBytes (s : State) (k : Nat) (data : Word) :
    msgWord { s with msg := Memory.writeBytes s.msg (4 * k) (le32Bytes data) } k = data := by
  simp [msgWord, msgByte_writeWord, le32_byteOf]

/-- Settles O15: the write stores the four bytes of the word, and the read puts them together again. -/
theorem writtenWordReadsBack : Obligations.WrittenWordReadsBack := by
  rintro s off data hb (hlen | ⟨hlo, hhi⟩ | ⟨hlo, hhi⟩)
  · rw [busWrite_len s data hlen, writeLen, writeIfIdle_idle _ hb]
    exact ⟨_, rfl, busRead_len _ hlen⟩
  · have haligned := wordOffset_mod off
    obtain ⟨k, hword⟩ : ∃ k, wordOffset off = 0x020 + 4 * k := ⟨(wordOffset off - 0x020) / 4, by omega⟩
    have hk : k < 8 := by omega
    rw [busWrite_digest s data hk hword, writeDigest, writeIfIdle_idle _ hb]
    exact ⟨_, rfl, (busRead_digest _ hk hword).trans (digestWord_putDigestWord s hk data)⟩
  · have haligned := wordOffset_mod off
    obtain ⟨k, hword⟩ : ∃ k, wordOffset off = 0x1000 + 4 * k := ⟨(wordOffset off - 0x1000) / 4, by omega⟩
    have hk : k < s.msgcap.toNat / 4 := by omega
    rw [busWrite_msg s data hk hword, writeMsg, writeIfIdle_idle _ hb]
    refine ⟨_, rfl, (busRead_msg _ ?inside hword).trans (msgWord_writeBytes s k data)⟩
    case inside => exact hk

/-! ### Reset (10_state.md R42, 70_reset_and_hazards.md R280 to R282) -/

/-- Every byte of HEX is 0x00 where the stored characters are. -/
theorem hexByte_of_zero {s : State} (h : s.hex = Vector.replicate 64 0) (j : Nat) : hexByte s j = 0 := by
  unfold hexByte
  split
  · rw [h, nth_replicate _ _ ‹_›]
  · rfl

/-- A reset at the head of the program is the step. -/
theorem step_reset {s : State} {rest : List HostEvent} (hp : s.program = .reset :: rest) :
    step s = .next (resetBlock { s with program := rest }) := by
  simp only [step, agentStep, hp]

/-- Settles O36: the step is `resetBlock`, which gives each field its reset value. -/
theorem resetOverridesEverything : Obligations.ResetOverridesEverything := fun _ _ hp =>
  ⟨_, step_reset hp, rfl, rfl, rfl, rfl, rfl, rfl, rfl, fun _ hj => nth_replicate _ _ hj,
    fun j _ => hexByte_of_zero rfl j, fun _ => rfl, rfl, rfl⟩

theorem digestWord_reset {k : Nat} (hk : k < 8) : digestWord State.reset k = 0 := by
  have hbyte {j : Nat} (hj : j < 32) : nth State.reset.digest j = 0 := nth_replicate _ _ hj
  rw [digestWord, hbyte (by omega), hbyte (by omega), hbyte (by omega), hbyte (by omega)]
  rfl

theorem hexWord_reset (k : Nat) : hexWord State.reset k = 0 := by
  simp only [hexWord, hexByte_of_zero (s := State.reset) rfl]
  rfl

/-- Settles O37: each entry of the address map below MSG reads the reset value of its register. -/
theorem resetReadsAsSpecified : Obligations.ResetReadsAsSpecified := by
  intro off hoff
  have haligned := wordOffset_mod off
  by_cases hcap : wordOffset off = 0x00C
  · rw [if_pos hcap, busRead_msgcap _ hcap]
    rfl
  rw [if_neg hcap]
  by_cases hlow : wordOffset off < 0x010
  · obtain h | h | h : wordOffset off = 0x000 ∨ wordOffset off = 0x004 ∨ wordOffset off = 0x008 := by omega
    · exact busRead_cmd _ h
    · exact busRead_len _ h
    · exact (busRead_status _ h).trans statusWord_reset
  by_cases hdigest : 0x020 ≤ wordOffset off ∧ wordOffset off < 0x040
  · have hword : wordOffset off = 0x020 + 4 * ((wordOffset off - 0x020) / 4) := by omega
    rw [busRead_digest _ (by omega) hword, digestWord_reset (by omega)]
  by_cases hhex : 0x040 ≤ wordOffset off ∧ wordOffset off < 0x084
  · have hword : wordOffset off = 0x040 + 4 * ((wordOffset off - 0x040) / 4) := by omega
    rw [busRead_hex _ (by omega) hword, hexWord_reset]
  · exact busRead_unmapped (targetIn_unmapped _ (by omega))

/-! ### POLL (30_encoding.md R91) -/

/-- Settles O42: the poll is the host's step, which takes it off the program and puts it back if the value is not there. -/
theorem pollRepeatsUntilValue : Obligations.PollRepeatsUntilValue := by
  intro s off mask value rest hp hfree
  have hread : busRead (takeEvent rest s) off = busRead s off := rfl
  rw [step_host hp (by simp) ((engineTurn_eq_false_iff hp).2 hfree), hostStep, hread]
  by_cases hv : busRead s off &&& mask = value
  · simp only [if_pos hv]
    exact ⟨_, rfl, rfl, rfl, rfl⟩
  · simp only [if_neg hv, hp]
    exact ⟨_, rfl, rfl, rfl, rfl⟩

/-! ### Several instances (60_exceptions.md R272) -/

/-- Settles O41: by induction on the list of instances, to the one that steps. -/
theorem instancesAreIndependent : Obligations.InstancesAreIndependent := by
  intro sys sys' k h
  induction sys generalizing sys' k with
  | nil => cases h
  | cons p rest ih =>
    cases k with
    | zero =>
      unfold System.stepAt at h
      cases hs : step p.core with
      | next t =>
        rw [hs] at h
        cases h
        refine ⟨rfl, fun j hj => ?_, p, t, rfl, hs, rfl⟩
        obtain ⟨j, rfl⟩ := Nat.exists_eq_succ_of_ne_zero hj
        rfl
      | fault f => rw [hs] at h; cases h
      | refused r => rw [hs] at h; cases h
    | succ k =>
      unfold System.stepAt at h
      split at h
      · next rest' hrest =>
        cases h
        obtain ⟨hlen, hother, q, t, hq, hstep, hq'⟩ := ih rest' k hrest
        refine ⟨congrArg (· + 1) hlen, fun j hj => ?_, q, t, hq, hstep, hq'⟩
        cases j with
        | zero => rfl
        | succ j => exact hother j (by omega)
      all_goals cases h

end Sys2Proof.Machine

/-! Proofs of the statements about padding and constants: the padded messages of SHA-256 (41_sha256.md R122, R123) and of
SHA3-256 (42_sha3_256.md R162, R163), the roots behind IV and K (41_sha256.md R124, R125), and the tables of Keccak
(42_sha3_256.md R169, R173). -/

namespace Sys2Proof.Machine

/-! ### Bytes of a sequence -/

theorem byteAt_append_left {a : Bytes} (b : Bytes) {i : Nat} (h : i < a.length) : byteAt (a ++ b) i = byteAt a i :=
  List.getD_append a b 0 i h

theorem byteAt_append_right {a : Bytes} (b : Bytes) {i : Nat} (h : a.length ≤ i) :
    byteAt (a ++ b) i = byteAt b (i - a.length) :=
  List.getD_append_right a b 0 i h

theorem byteAt_replicate_zero (n i : Nat) : byteAt (List.replicate n 0x00) i = 0x00 := by
  rcases Nat.lt_or_ge i n with h | h <;> simp [byteAt, List.getD, h]

/-- Byte `q` of a value, as a number. -/
theorem toNat_byteOf {N : Nat} (v : BitVec N) (q : Nat) : (byteOf v q).toNat = v.toNat / 2 ^ (8 * q) % 256 := by
  rw [byteOf, BitVec.extractLsb'_toNat, Nat.shiftRight_eq_div_pow]

/-- Byte `q` of eight, most significant first (00_scope.md R10). -/
theorem byteAt_be64Bytes (v : Lane) {q : Nat} (hq : q < 8) : byteAt (be64Bytes v) q = byteOf v (7 - q) := by
  interval_cases q <;> rfl

/-! ### SHA-256 (41_sha256.md R122) -/

/-- The zeros leave room for the length, and are fewer than a block. -/
theorem padZeros256_spec (len : Nat) : padZeros256 len < 64 ∧ (len + 1 + padZeros256 len) % 64 = 56 := by
  unfold padZeros256
  omega

theorem pad256_length (m : Bytes) : (pad256 m).length = m.length + 9 + padZeros256 m.length := by
  simp only [pad256, List.length_append, List.length_replicate, List.length_singleton, be64Bytes_length]
  omega

/-- The padded message fills its blocks. -/
theorem pad256_length_blocks (m : Bytes) : (pad256 m).length = 64 * ((m.length + 72) / 64) := by
  obtain ⟨hlt, hmod⟩ := padZeros256_spec m.length
  rw [pad256_length]
  omega

/-- Settles O43: the number of zeros is `padZeros256`, and each byte is found in the part of the padded message where
it lies. -/
theorem pad256Shape : Obligations.Pad256Shape := by
  intro m hfits
  obtain ⟨hlt, hmod⟩ := padZeros256_spec m.length
  have hmark : (m ++ [0x80]).length = m.length + 1 := by simp
  have hzeros : (m ++ [0x80] ++ List.replicate (padZeros256 m.length) 0x00).length = m.length + 1 + padZeros256 m.length := by
    rw [List.length_append, List.length_replicate, hmark]
  refine ⟨padZeros256 m.length, hlt, hmod, fun k' hk' => by omega, pad256_length m, pad256_length_blocks m,
    fun i hi => ?message, ?mark, fun i hlo hhi => ?zeros, fun q hq => ?len⟩
  case message =>
    rw [pad256, byteAt_append_left _ (by omega), byteAt_append_left _ (by omega), byteAt_append_left _ hi]
  case mark =>
    rw [pad256, byteAt_append_left _ (by omega), byteAt_append_left _ (by omega), byteAt_append_right _ le_rfl, Nat.sub_self]
    rfl
  case zeros =>
    rw [pad256, byteAt_append_left _ (by omega), byteAt_append_right _ (by omega), byteAt_replicate_zero]
  case len =>
    rw [pad256, byteAt_append_right _ (by omega), hzeros, Nat.add_sub_cancel_left, byteAt_be64Bytes _ hq, toNat_byteOf,
      BitVec.toNat_ofNat, Nat.mod_eq_of_lt hfits]

/-! ### SHA3-256 (42_sha3_256.md R162) -/

/-- One byte is left in the last block: it closes the message alone. -/
theorem pad3_of_one_left {m : Bytes} (h : m.length % 136 = 135) : pad3 m = m ++ [0x86] :=
  if_pos (by rw [padRoom3, h])

/-- At least two bytes are left. -/
theorem pad3_of_more_left {m : Bytes} (h : m.length % 136 ≠ 135) :
    pad3 m = m ++ [0x06] ++ List.replicate (134 - m.length % 136) 0x00 ++ [0x80] := by
  have hroom : padRoom3 m.length - 2 = 134 - m.length % 136 := by
    unfold padRoom3
    omega
  have hone : padRoom3 m.length ≠ 1 := by
    unfold padRoom3
    omega
  rw [pad3, if_neg hone, hroom]

/-- The padded message fills its blocks (42_sha3_256.md R163). -/
theorem pad3_length (m : Bytes) : (pad3 m).length = 136 * (m.length / 136 + 1) := by
  by_cases h : m.length % 136 = 135
  · rw [pad3_of_one_left h, List.length_append, List.length_singleton]
    omega
  · rw [pad3_of_more_left h]
    simp only [List.length_append, List.length_replicate, List.length_singleton]
    omega

/-- Settles O50: each byte is found in the part of the padded message where it lies. -/
theorem pad3Shape : Obligations.Pad3Shape := by
  refine fun m => ⟨pad3_length m, fun i hi => ?message, fun h => ?one, fun h => ?more⟩
  case message =>
    by_cases h : m.length % 136 = 135
    · rw [pad3_of_one_left h, byteAt_append_left _ hi]
    · rw [pad3_of_more_left h, List.append_assoc, List.append_assoc, byteAt_append_left _ hi]
  case one =>
    rw [pad3_of_one_left h, byteAt_append_right _ le_rfl, Nat.sub_self]
    rfl
  case more =>
    have hmark : (m ++ [0x06]).length = m.length + 1 := by simp
    have hzeros : (m ++ [0x06] ++ List.replicate (134 - m.length % 136) (0x00 : Byte)).length =
        m.length + 1 + (134 - m.length % 136) := by
      rw [List.length_append, List.length_replicate, hmark]
    have hlast : (pad3 m).length - 1 = m.length + 1 + (134 - m.length % 136) := by
      rw [pad3_length]
      omega
    rw [hlast, pad3_of_more_left h]
    refine ⟨?mark, ?last, fun i hlo hhi => ?zeros⟩
    case mark =>
      rw [byteAt_append_left _ (by omega), byteAt_append_left _ (by omega), byteAt_append_right _ le_rfl, Nat.sub_self]
      rfl
    case last =>
      rw [byteAt_append_right _ hzeros.le, hzeros, Nat.sub_self]
      rfl
    case zeros =>
      rw [byteAt_append_left _ (by omega), byteAt_append_right _ (by omega), byteAt_replicate_zero]

/-! ### The constants of SHA-256 are roots of primes (41_sha256.md R124, R125) -/

/-- The numbers below `n` with a property, in order, are the first ones with it. -/
theorem filter_range_eq_map_nth (p : Nat → Prop) [DecidablePred p] (n : Nat) :
    (List.range n).filter p = (List.range (Nat.count p n)).map (Nat.nth p) := by
  induction n with
  | zero => simp
  | succ n ih =>
    rw [List.range_succ, List.filter_append, ih, Nat.count_succ]
    by_cases hp : p n
    · simp [hp, List.range_succ, Nat.nth_count hp]
    · simp [hp]

/-- The primes below 312. -/
def firstPrimes : List Nat :=
  [2, 3, 5, 7, 11, 13, 17, 19, 23, 29, 31, 37, 41, 43, 47, 53, 59, 61, 67, 71, 73, 79, 83, 89, 97, 101, 103, 107, 109, 113, 127,
   131, 137, 139, 149, 151, 157, 163, 167, 173, 179, 181, 191, 193, 197, 199, 211, 223, 227, 229, 233, 239, 241, 251, 257, 263,
   269, 271, 277, 281, 283, 293, 307, 311]

/-- Below 18 * 18 trial division needs the divisors below 18 only. -/
theorem prime_iff_of_lt {n : Nat} (hn : n < 18 * 18) :
    n.Prime ↔ 2 ≤ n ∧ ∀ d, d < 18 → 2 ≤ d → d * d ≤ n → ¬d ∣ n := by
  rw [Nat.prime_def_le_sqrt]
  refine and_congr_right fun _ => ⟨fun h d _ h2 hd => h d h2 (Nat.le_sqrt.2 hd), fun h d h2 hd => ?_⟩
  have hsq : d * d ≤ n := Nat.le_sqrt.1 hd
  exact h d (Nat.mul_self_lt_mul_self_iff.1 (hsq.trans_lt hn)) h2 hsq

theorem filter_prime : (List.range 312).filter Nat.Prime = firstPrimes := by
  have htrial : (List.range 312).filter (fun n => 2 ≤ n ∧ ∀ d, d < 18 → 2 ≤ d → d * d ≤ n → ¬d ∣ n) = firstPrimes := by
    decide +kernel
  rw [← htrial]
  refine List.filter_congr fun n hn => decide_eq_decide.2 (prime_iff_of_lt ?_)
  have hlt := List.mem_range.1 hn
  omega

/-- The first 64 primes in order. -/
theorem nth_prime_eq {j : Nat} (hj : j < 64) : Nat.nth Nat.Prime j = firstPrimes.getD j 0 := by
  have hmap := filter_prime.symm.trans (filter_range_eq_map_nth Nat.Prime 312)
  have hcount : Nat.count Nat.Prime 312 = 64 := by simpa [firstPrimes] using (congrArg List.length hmap).symm
  rw [hmap, hcount]
  simp [List.getD, hj]

/-- Settles O44: the root of each prime is a small whole part, found among the numbers below 18, and the constant. -/
theorem sha256ConstantsAreRoots : Obligations.Sha256ConstantsAreRoots := by
  have hsquare : ∀ j, j < 8 → ∃ a, a < 18 ∧
      (a * 2 ^ 32 + (sha256IV.words.getD j 0).toNat) ^ 2 ≤ firstPrimes.getD j 0 * 2 ^ 64 ∧
      firstPrimes.getD j 0 * 2 ^ 64 < (a * 2 ^ 32 + (sha256IV.words.getD j 0).toNat + 1) ^ 2 := by decide +kernel
  have hcube : ∀ t, t < 64 → ∃ a, a < 18 ∧
      (a * 2 ^ 32 + (kConst t).toNat) ^ 3 ≤ firstPrimes.getD t 0 * 2 ^ 96 ∧
      firstPrimes.getD t 0 * 2 ^ 96 < (a * 2 ^ 32 + (kConst t).toNat + 1) ^ 3 := by decide +kernel
  have hlow (a : Nat) (w : Word) : w.toNat = (a * 2 ^ 32 + w.toNat) % 2 ^ 32 := by omega
  refine ⟨fun j hj => ?square, fun t ht => ?cube⟩
  case square =>
    obtain ⟨a, _, hle, hlt⟩ := hsquare j hj
    rw [nth_prime_eq (by omega)]
    exact ⟨_, hle, hlt, hlow a _⟩
  case cube =>
    obtain ⟨a, _, hle, hlt⟩ := hcube t ht
    rw [nth_prime_eq ht]
    exact ⟨_, hle, hlt, hlow a _⟩

/-! ### The tables of Keccak (42_sha3_256.md R169, R173) -/

/-- Settles O53: both tables are fixed, and so are the walk and the LFSR, so each entry is compared by evaluation. -/
theorem keccakTablesFollowTheirRules : Obligations.KeccakTablesFollowTheirRules := by
  unfold Obligations.KeccakTablesFollowTheirRules
  decide +kernel

end Sys2Proof.Machine

/-! Proofs of the statements about the engines as hardware (41_sha256.md R135, R136; 42_sha3_256.md R174): an iterative or
unrolled engine computes the function. -/

namespace Sys2Proof.Machine

/-! ### Rounds make up blocks -/

/-- An engine of `R` rounds to a block that goes from round to round, and from the last round of a block to the start of the
next, is at the start of block `b` after `R * b` rounds. -/
theorem iterate_blocks {σ : Type} {f : σ → σ} {At : Nat → Nat → σ → Prop} {R N : Nat} (hR : 0 < R)
    (hround : ∀ {b t r}, b < N → t + 1 < R → At b t r → At b (t + 1) (f r))
    (hlast : ∀ {b r}, b < N → At b (R - 1) r → At (b + 1) 0 (f r))
    {r : σ} (hstart : At 0 0 r) {b : Nat} (hb : b ≤ N) : At b 0 (f^[R * b] r) := by
  induction b with
  | zero => exact hstart
  | succ b ih =>
    have hinside (t : Nat) (ht : t < R) : At b t (f^[R * b + t] r) := by
      induction t with
      | zero => exact ih (by omega)
      | succ t iht =>
        rw [← Nat.add_assoc, Function.iterate_succ_apply']
        exact hround hb ht (iht (by omega))
    have hsteps : R * (b + 1) = R * b + (R - 1) + 1 := by
      rw [Nat.mul_succ]
      omega
    rw [hsteps, Function.iterate_succ_apply']
    exact hlast hb (hinside (R - 1) (by omega))

theorem Sha256Regs.moves_eq_iterate (p : Bytes) (r : Sha256Regs) (n : Nat) : r.moves p n = (Sha256Regs.move p)^[n] r := by
  induction n with
  | zero => rfl
  | succ n ih => rw [Function.iterate_succ_apply', ← ih, Sha256Regs.moves]

theorem KeccakRegs.moves_eq_iterate (p : Bytes) (r : KeccakRegs) (n : Nat) : r.moves p n = (KeccakRegs.move p)^[n] r := by
  induction n with
  | zero => rfl
  | succ n ih => rw [Function.iterate_succ_apply', ← ih, KeccakRegs.moves]

/-! ### SHA-256 (41_sha256.md R135) -/

/-- The schedule of block `b` of a padded message. -/
def blockSchedule (p : Bytes) (b : Nat) : List Word := schedule (blockWords (block256 p b))

/-- The engine in block `b` after `t` rounds: the hash state is that of the blocks before, the working variables are those of
`t` rounds, and of the schedule the words up to `W[15 + t]` are there. Once all blocks are fed, only the hash state counts. -/
def Sha256Regs.At (p : Bytes) (b t : Nat) (r : Sha256Regs) : Prop :=
  r.blockIndex = b ∧ r.hash = hashBlocks p b ∧
  (b < p.length / 64 → r.roundIndex = t ∧ r.vars = rounds256 (blockSchedule p b) (hashBlocks p b) t ∧
    ∀ u, u < 64 → u < 16 + t → nth r.sched u = (blockSchedule p b).getD u 0)

@[simp] theorem blockWords_length (b : Bytes) : (blockWords b).length = 16 := by simp [blockWords]

/-- The first 16 words of the schedule are those of the block (41_sha256.md R132). -/
theorem getD_blockSchedule_of_lt (p : Bytes) (b : Nat) {u : Nat} (hu : u < 16) :
    (blockSchedule p b).getD u 0 = blockWord (block256 p b) u := by
  obtain ⟨_, hfirst, _⟩ := scheduleRecurrence _ (blockWords_length (block256 p b))
  rw [blockSchedule, hfirst u hu]
  simp [blockWords, List.getD, hu]

/-- A block is loaded with the hash state that the blocks before it left. -/
theorem Sha256Regs.loadBlock_at {p : Bytes} {r : Sha256Regs} (h : r.hash = hashBlocks p r.blockIndex) :
    (r.loadBlock p).At p r.blockIndex 0 := by
  refine ⟨rfl, h, fun _ => ⟨rfl, h, fun u hu hu16 => ?_⟩⟩
  rw [getD_blockSchedule_of_lt p r.blockIndex (by omega)]
  exact (nth_arrayOf_of_lt _ hu).trans (if_pos (by omega))

/-- The word that round `t` computes ahead is the recurrence's, on the words that are there. -/
theorem nth_schedAhead {p : Bytes} {b t : Nat} {w : Vector Word 64}
    (hw : ∀ u, u < 64 → u < 16 + t → nth w u = (blockSchedule p b).getD u 0) {u : Nat} (hu : u < 64) (hut : u < 16 + (t + 1)) :
    nth (schedAhead w t) u = (blockSchedule p b).getD u 0 := by
  rw [schedAhead, nth_arrayOf_of_lt _ hu]
  split
  · next h =>
    have hrec : (blockSchedule p b).getD (16 + t) 0 = nextSchedWord (blockSchedule p b) (16 + t) :=
      getD_schedUpTo_recurrence (blockWords_length _) (by omega)
    rw [h, Nat.add_comm t 16, hrec]
    exact nextSchedWord_congr (by omega) fun k hk => hw k (by omega) hk
  · exact hw u hu (by omega)

/-- In a block a move is a round, and after the last one the feed. -/
theorem Sha256Regs.At.move_eq {p : Bytes} {b t : Nat} {r : Sha256Regs} (h : r.At p b t) (hb : b < p.length / 64) :
    r.move p = if t + 1 < 64 then r.round else r.round.feed p := by
  obtain ⟨rfl, _, hin⟩ := h
  obtain ⟨rfl, _⟩ := hin hb
  rw [Sha256Regs.move, if_pos hb, Sha256Regs.afterRound]
  rfl

/-- A round of R133, on the words of the schedule that are there. -/
theorem Sha256Regs.At.round {p : Bytes} {b t : Nat} {r : Sha256Regs} (h : r.At p b t) (hb : b < p.length / 64) (ht : t < 64) :
    r.round.At p b (t + 1) := by
  obtain ⟨rfl, hhash, hin⟩ := h
  obtain ⟨rfl, hvars, hsched⟩ := hin hb
  refine ⟨rfl, hhash, fun _ => ⟨rfl, ?vars, fun u hu hut => nth_schedAhead hsched hu hut⟩⟩
  case vars =>
    rw [rounds256, ← hvars, ← hsched r.roundIndex ht (by omega)]
    rfl

/-- After the 64 rounds of a block the feed adds their result to the hash state (41_sha256.md R134). -/
theorem Sha256Regs.At.feed {p : Bytes} {b : Nat} {r : Sha256Regs} (h : r.At p b 64) (hb : b < p.length / 64) :
    (r.feed p).At p (b + 1) 0 := by
  obtain ⟨rfl, hhash, hin⟩ := h
  obtain ⟨_, hvars, _⟩ := hin hb
  have hfed : r.hash.add r.vars = hashBlocks p (r.blockIndex + 1) := by
    rw [hhash, hvars]
    rfl
  simp only [Sha256Regs.feed]
  split
  · exact Sha256Regs.loadBlock_at (r := { r with hash := _, blockIndex := _ }) hfed
  · exact ⟨rfl, hfed, fun hlt => absurd hlt ‹_›⟩

/-- The engine has the hash state of all blocks after 64 rounds for each, and keeps it. -/
theorem Sha256Regs.hash_start_moves (p : Bytes) (r : Sha256Regs) {n : Nat} (hn : 64 * (p.length / 64) ≤ n) :
    ((r.start p).moves p n).hash = hashBlocks p (p.length / 64) := by
  have hstart : (r.start p).At p 0 0 := Sha256Regs.loadBlock_at (r := { r with hash := sha256IV, blockIndex := 0 }) rfl
  obtain ⟨hindex, hhash, _⟩ := iterate_blocks (f := Sha256Regs.move p) (At := Sha256Regs.At p) (R := 64) (by decide)
    (fun hb ht hat => by
      rw [hat.move_eq hb, if_pos ht]
      exact hat.round hb (by omega))
    (fun hb hat => by
      rw [hat.move_eq hb, if_neg (by decide)]
      exact (hat.round hb (by decide)).feed hb)
    hstart le_rfl
  obtain ⟨extra, rfl⟩ := Nat.exists_eq_add_of_le hn
  rw [Sha256Regs.moves_add, Sha256Regs.moves_eq_iterate p (r.start p), Sha256Regs.moves_done hindex.ge, hhash]

/-- The acceptance whose engine the two statements run. -/
theorem acceptance_of_exec {i : Instr} {s t : State} (hb : s.busy = false) (h : exec i s = .next t) : t = acceptance i s :=
  Host.Outcome.next.inj (h.symm.trans (exec_idle i hb))

/-- Settles O49: the cycles are rounds, and these reach the hash state of all blocks. -/
theorem sha256EngineComputesTheFunction : Obligations.Sha256EngineComputesTheFunction := by
  intro i s t unroll cycles hi hb hlen hexec hcycles
  obtain rfl := acceptance_of_exec hb hexec
  have hp : PassesChecks i s := by
    rcases hi with rfl | rfl
    · exact ⟨rfl, hlen⟩
    · exact ⟨rfl, hlen, .inl rfl⟩
  obtain ⟨_, _, _, _, _, _, _, _, hop, halg, hlenL, _⟩ := acceptance_fields i s
  have huses : usesSha256 (acceptance i s) = true := by
    unfold usesSha256
    rw [hop, halg]
    rcases hi with rfl | rfl <;> rfl
  obtain ⟨hsha, _⟩ := acceptance_engines hp
  have hblocks : (pad256 (message (acceptance i s))).length / 64 = (s.len.toNat + 72) / 64 := by
    rw [pad256_length_blocks, message_length, hlenL, Nat.mul_div_cancel_left _ (by decide)]
  rw [engineCycles_sha256 unroll huses]
  simp only [hsha, if_pos huses]
  rw [Sha256Regs.hash_start_moves _ _ (hblocks ▸ hcycles), sha256]

/-! ### SHA3-256 (42_sha3_256.md R174) -/

/-- The engine in block `j` after `ir` rounds, or, once all blocks are absorbed, the final state. -/
def KeccakRegs.At (p : Bytes) (j ir : Nat) (r : KeccakRegs) : Prop :=
  r.blockIndex = j ∧ (j < p.length / 136 → r.roundIndex = ir ∧
    r.lanes = keccakRounds (xorBlock (absorbBlocks p j) (block3 p j)) ir) ∧
  (¬j < p.length / 136 → r.lanes = absorbBlocks p j)

/-- A block is loaded into the state that the blocks before it left. -/
theorem KeccakRegs.loadBlock_at {p : Bytes} {r : KeccakRegs} (h : r.lanes = absorbBlocks p r.blockIndex)
    (hj : r.blockIndex < p.length / 136) : (r.loadBlock p).At p r.blockIndex 0 := by
  refine ⟨rfl, fun _ => ⟨rfl, ?_⟩, fun hdone => absurd hj hdone⟩
  rw [← h]
  rfl

/-- In a block a move is a round, and after the last one the next block. -/
theorem KeccakRegs.At.move_eq {p : Bytes} {j ir : Nat} {r : KeccakRegs} (h : r.At p j ir) (hj : j < p.length / 136) :
    r.move p = if ir + 1 < 24 then r.round else r.round.nextBlock p := by
  obtain ⟨rfl, hin, _⟩ := h
  obtain ⟨rfl, _⟩ := hin hj
  rw [KeccakRegs.move, if_pos hj, KeccakRegs.afterRound]
  rfl

theorem KeccakRegs.At.round {p : Bytes} {j ir : Nat} {r : KeccakRegs} (h : r.At p j ir) (hj : j < p.length / 136) :
    r.round.At p j (ir + 1) := by
  obtain ⟨rfl, hin, _⟩ := h
  obtain ⟨rfl, hlanes⟩ := hin hj
  refine ⟨rfl, fun _ => ⟨rfl, ?_⟩, fun hdone => absurd hj hdone⟩
  rw [keccakRounds, ← hlanes]
  rfl

/-- The 24 rounds of a block absorb it (42_sha3_256.md R164, R165). -/
theorem KeccakRegs.At.nextBlock {p : Bytes} {j : Nat} {r : KeccakRegs} (h : r.At p j 24) (hj : j < p.length / 136) :
    (r.nextBlock p).At p (j + 1) 0 := by
  obtain ⟨rfl, hin, _⟩ := h
  obtain ⟨_, hlanes⟩ := hin hj
  simp only [KeccakRegs.nextBlock]
  split
  · exact KeccakRegs.loadBlock_at (r := { r with blockIndex := _ }) hlanes ‹_›
  · exact ⟨rfl, fun hlt => absurd hlt ‹_›, fun _ => hlanes⟩

/-- The engine has the state of all blocks after 24 rounds for each, and keeps it. -/
theorem KeccakRegs.lanes_start_moves (p : Bytes) (hp : 0 < p.length / 136) {n : Nat} (hn : 24 * (p.length / 136) ≤ n) :
    ((KeccakRegs.start p).moves p n).lanes = absorbBlocks p (p.length / 136) := by
  have hstart : (KeccakRegs.start p).At p 0 0 := KeccakRegs.loadBlock_at (r := KeccakRegs.zero) rfl hp
  obtain ⟨hindex, _, hlanes⟩ := iterate_blocks (f := KeccakRegs.move p) (At := KeccakRegs.At p) (R := 24) (by decide)
    (fun hj ht hat => by
      rw [hat.move_eq hj, if_pos ht]
      exact hat.round hj)
    (fun hj hat => by
      rw [hat.move_eq hj, if_neg (by decide)]
      exact (hat.round hj).nextBlock hj)
    hstart le_rfl
  obtain ⟨extra, rfl⟩ := Nat.exists_eq_add_of_le hn
  rw [KeccakRegs.moves_add, KeccakRegs.moves_eq_iterate p (KeccakRegs.start p), KeccakRegs.moves_done hindex.ge,
    hlanes (lt_irrefl _)]

/-- Settles O57: the cycles are rounds, and these reach the state of all blocks. -/
theorem sha3EngineComputesTheFunction : Obligations.Sha3EngineComputesTheFunction := by
  intro i s t unroll cycles hi hb hlen hexec hcycles
  obtain rfl := acceptance_of_exec hb hexec
  have hp : PassesChecks i s := by
    rcases hi with rfl | rfl
    · exact ⟨rfl, hlen⟩
    · exact ⟨rfl, hlen, .inr rfl⟩
  obtain ⟨_, _, _, _, _, _, _, _, hop, halg, hlenL, _⟩ := acceptance_fields i s
  have huses : usesSha256 (acceptance i s) = false ∧ usesSha3_256 (acceptance i s) = true := by
    unfold usesSha256 usesSha3_256
    rw [hop, halg]
    rcases hi with rfl | rfl <;> exact ⟨rfl, rfl⟩
  obtain ⟨_, hkeccak⟩ := acceptance_engines hp
  have hblocks : (pad3 (message (acceptance i s))).length / 136 = s.len.toNat / 136 + 1 := by
    rw [pad3_length, message_length, hlenL, Nat.mul_div_cancel_left _ (by decide)]
  rw [engineCycles_sha3_256 unroll huses.1 huses.2]
  simp only [hkeccak, if_pos huses.2]
  rw [KeccakRegs.lanes_start_moves _ (by omega) (hblocks ▸ hcycles), sha3_256]

end Sys2Proof.Machine

/-! Proof of the statement about the call contract (44_dispatch.md R232): the host sequence of `digest(data, tag)` runs to its
answer. The run is put together from its parts: the words of the message, the length, the command, the wait, the reads. -/

namespace Sys2Proof.Machine

/-! ### Bytes, words and sequences -/

/-- The bytes of a word put together from four bytes are these (00_scope.md R10). -/
theorem le32Bytes_le32 (b0 b1 b2 b3 : Byte) : le32Bytes (le32 b0 b1 b2 b3) = [b0, b1, b2, b3] := by
  simp only [le32Bytes, List.cons.injEq, and_true]
  refine ⟨?_, ?_, ?_, ?_⟩ <;> refine BitVec.eq_of_getLsbD_eq fun i hi => ?_ <;> interval_cases i <;> simp [byteOf, le32]

/-- The words of an array of bytes, taken apart again, are its bytes in order. -/
theorem flatMap_range_four (f : Nat → Byte) (n : Nat) :
    (List.range n).flatMap (fun k => [f (4 * k), f (4 * k + 1), f (4 * k + 2), f (4 * k + 3)]) =
      (List.range (4 * n)).map f := by
  induction n with
  | zero => rfl
  | succ n ih => simp [List.range_succ, Nat.mul_succ, ih]

theorem toList_eq_map_nth {w n : Nat} (v : Vector (BitVec w) n) : v.toList = (List.range n).map (nth v) := by
  refine List.ext_getElem (by simp) fun i hi _ => ?_
  have hn : i < n := by simpa using hi
  simp [nth, List.getD, hn]

/-- The 16 HEX words carry the 64 characters (20_memory.md R55). -/
theorem flatMap_hexWord (s : State) : ((List.range 16).map (hexWord s)).flatMap le32Bytes = s.hex.toList := by
  have hword : ∀ k ∈ List.range 16, le32Bytes (hexWord s k) =
      [nth s.hex (4 * k), nth s.hex (4 * k + 1), nth s.hex (4 * k + 2), nth s.hex (4 * k + 3)] := fun k hk => by
    rw [hexWord_of_lt s (List.mem_range.1 hk), le32Bytes_le32]
  rw [List.flatMap_map, List.flatMap_congr hword, flatMap_range_four (nth s.hex), toList_eq_map_nth]

/-- A message is read back from the bytes it was written to. -/
theorem memRead_eq {s : State} {m : Bytes} (h : ∀ i, i < m.length → msgByte s i = byteAt m i) : memRead s 0 m.length = m := by
  refine List.ext_getElem (by simp [memRead]) fun i _ hi => ?_
  simp [memRead, h i hi, byteAt, List.getD, hi]

/-! ### Step 1: the words of the message -/

/-- WRSTR writes the first word, and the rest four bytes further on (30_encoding.md R91). -/
theorem wrstr_eq_cons (off : Word) {m : Bytes} (hm : m ≠ []) :
    wrstr off m = .write off (le32 (byteAt m 0) (byteAt m 1) (byteAt m 2) (byteAt m 3)) :: wrstr (off + 4) (m.drop 4) := by
  rcases m with _ | ⟨b0, _ | ⟨b1, _ | ⟨b2, _ | ⟨b3, rest⟩⟩⟩⟩
  · exact absurd rfl hm
  all_goals rfl

theorem offMsg_add_four (k : Nat) : offMsg (4 * k) + 4 = offMsg (4 * (k + 1)) := by
  refine BitVec.eq_of_toNat_eq ?_
  simp [offMsg]
  omega

theorem wordOffset_offMsg {k : Nat} (hk : 0x1000 + 4 * k < 2 ^ 32) : wordOffset (offMsg (4 * k)) = 0x1000 + 4 * k := by
  rw [wordOffset_eq, offMsg, BitVec.toNat_ofNat, Nat.mod_eq_of_lt hk]
  omega

/-- A write at the head of the program in IDLE is the step. -/
theorem step_write {s : State} {off data : Word} {rest : List HostEvent} (hb : s.busy = false)
    (hp : s.program = .write off data :: rest) : step s = busWrite off data (takeEvent rest s) :=
  step_host hp (by simp) (engineTurn_idle hb)

/-- The state after the host's write of MSG word `k` in IDLE (20_memory.md R62). -/
def wordWritten (k : Nat) (data : Word) (rest : List HostEvent) (s : State) : State :=
  { s with program := rest, msg := Memory.writeBytes s.msg (4 * k) (le32Bytes data), wait := s.wait - 1 }

/-- Every word inside the buffer has an offset that does not wrap, so the write reaches it. -/
theorem step_write_msg {k : Nat} {data : Word} {rest : List HostEvent} {s : State} (hb : s.busy = false)
    (hcap : s.msgcap.toNat ≤ 2 ^ 32 - 4096) (hk : k < s.msgcap.toNat / 4)
    (hp : s.program = .write (offMsg (4 * k)) data :: rest) :
    step s = .next (wordWritten k data rest s) := by
  rw [step_write hb hp, busWrite_msg (takeEvent rest s) data hk (wordOffset_offMsg (by omega)), writeMsg,
    writeIfIdle_idle (s := takeEvent rest s) _ hb]
  rfl

/-- Byte `i` of the word that WRSTR writes first. -/
theorem byteOf_firstWord (m : Bytes) {i : Nat} (hi : i < 4) :
    byteOf (le32 (byteAt m 0) (byteAt m 1) (byteAt m 2) (byteAt m 3)) i = byteAt m i := by
  have hbytes := le32Bytes_le32 (byteAt m 0) (byteAt m 1) (byteAt m 2) (byteAt m 3)
  simp only [le32Bytes, List.cons.injEq] at hbytes
  obtain ⟨h0, h1, h2, h3, _⟩ := hbytes
  interval_cases i
  · exact h0
  · exact h1
  · exact h2
  · exact h3

/-- `s` runs until `rest` is what is left of the program, and the bytes of `m` stand in MSG from word `k` on; the words below
stay, and so does everything but MSG and the schedule. -/
def WritesMessage (k : Nat) (m : Bytes) (rest : List HostEvent) (s : State) : Prop :=
  ∃ n msg wait, Steps n s { s with program := rest, msg := msg, wait := wait } ∧
    (∀ a, a < 4 * k → msgByte { s with msg := msg } a = msgByte s a) ∧
    ∀ i, i < m.length → msgByte { s with msg := msg } (4 * k + i) = byteAt m i

theorem writesMessage_nil {k : Nat} {rest : List HostEvent} {s : State} (hp : s.program = rest) :
    WritesMessage k [] rest s := by
  subst hp
  exact ⟨0, s.msg, s.wait, .refl s, fun _ _ => rfl, fun i hi => absurd hi (Nat.not_lt_zero i)⟩

/-- The first word, and then the others. -/
theorem writesMessage_cons {k : Nat} {m : Bytes} {rest others : List HostEvent} {s : State} {data : Word}
    (hdata : ∀ i, i < 4 → byteOf data i = byteAt m i) (hstep : step s = .next (wordWritten k data others s))
    (h : WritesMessage (k + 1) (m.drop 4) rest (wordWritten k data others s)) : WritesMessage k m rest s := by
  obtain ⟨n, msg, wait, hsteps, hbelow, hbytes⟩ := h
  have hfirst (a : Nat) (ha : a < 4 * (k + 1)) :
      msgByte { s with msg := msg } a = if 4 * k ≤ a ∧ a < 4 * k + 4 then byteOf data (a - 4 * k) else msgByte s a :=
    (hbelow a ha).trans (msgByte_writeWord s k data a)
  refine ⟨n + 1, msg, wait, .tail hstep hsteps, fun a ha => ?below, fun i hi => ?bytes⟩
  case below => rw [hfirst a (by omega), if_neg (by omega)]
  case bytes =>
    rcases Nat.lt_or_ge i 4 with h4 | h4
    · rw [hfirst _ (by omega), if_pos (by omega), Nat.add_sub_cancel_left, hdata i h4]
    · obtain ⟨j, rfl⟩ := Nat.exists_eq_add_of_le h4
      have hj : j < (m.drop 4).length := by
        rw [List.length_drop]
        omega
      have hbyte : byteAt (m.drop 4) j = byteAt m (4 + j) := by simp [byteAt, List.getD]
      rw [← hbyte, ← hbytes j hj, show 4 * k + (4 + j) = 4 * (k + 1) + j by omega]
      rfl

/-- WRSTR writes a message that fits from word `k` of MSG on, by induction on the number of words. -/
theorem writesMessage_wrstr {words k : Nat} {m : Bytes} {rest : List HostEvent} {s : State} (hb : s.busy = false)
    (hcap : s.msgcap.toNat % 4 = 0 ∧ s.msgcap.toNat ≤ 2 ^ 32 - 4096) (hwords : m.length ≤ 4 * words)
    (hfit : 4 * k + m.length ≤ s.msgcap.toNat) (hp : s.program = wrstr (offMsg (4 * k)) m ++ rest) :
    WritesMessage k m rest s := by
  induction words generalizing k m s with
  | zero =>
    obtain rfl : m = [] := List.eq_nil_of_length_eq_zero (by omega)
    exact writesMessage_nil hp
  | succ words ih =>
    rcases eq_or_ne m [] with rfl | hm
    · exact writesMessage_nil hp
    · have hpos : 0 < m.length := List.length_pos_iff.2 hm
      have hdrop : (m.drop 4).length = m.length - 4 := List.length_drop
      have hfits : 4 * (k + 1) + (m.drop 4).length ≤ s.msgcap.toNat := by omega
      rw [wrstr_eq_cons _ hm, List.cons_append, offMsg_add_four] at hp
      exact writesMessage_cons (fun i hi => byteOf_firstWord m hi) (step_write_msg hb hcap.2 (by omega) hp)
        (ih hb hcap (by omega) hfits rfl)

/-! ### Step 2: the length -/

theorem wordOffset_offLen : wordOffset offLen = 0x004 := by decide

/-- A length written in IDLE is stored (20_memory.md R63). -/
theorem step_write_len {data : Word} {rest : List HostEvent} {s : State} (hb : s.busy = false)
    (hp : s.program = .write offLen data :: rest) :
    step s = .next { s with program := rest, len := data, wait := s.wait - 1 } := by
  rw [step_write hb hp, busWrite_len (takeEvent rest s) data wordOffset_offLen, writeLen,
    writeIfIdle_idle (s := takeEvent rest s) _ hb]
  rfl

/-- Steps 1 and 2 of the call leave the message in MSG and its length in LEN, with the command next. -/
theorem steps_to_command {m : Bytes} {i : Instr} {s : State} (hb : s.busy = false) (hcap : capAdmissible s.msgcap.toNat)
    (hfit : m.length ≤ s.msgcap.toNat) (hp : s.program = callSequence m i) :
    ∃ n t, Steps n s t ∧ t.program = [.command i, .pollIdle] ∧ t.busy = false ∧ t.msgcap = s.msgcap ∧
      t.len.toNat = m.length ∧ memRead t 0 t.len.toNat = m := by
  obtain ⟨hcap4, _, hcapmax⟩ := hcap
  obtain ⟨n, msg, wait, hsteps, _, hbytes⟩ :=
    writesMessage_wrstr (words := m.length) (k := 0) hb ⟨hcap4, hcapmax⟩ (by omega) (by omega) hp
  have hlen : (BitVec.ofNat 32 m.length).toNat = m.length := by
    rw [BitVec.toNat_ofNat, Nat.mod_eq_of_lt (by omega)]
  refine ⟨1 + n, _, hsteps.append (.tail (step_write_len hb rfl) (.refl _)), rfl, hb, rfl, hlen, ?_⟩
  rw [hlen]
  exact memRead_eq fun i hi => (congrArg _ (Nat.zero_add i).symm).trans (hbytes i hi)

/-! ### Step 3: the command -/

theorem wordOffset_offCmd : wordOffset offCmd = 0x000 := by decide

/-- The state in which the host's command word is accepted: it is taken off the program and stands in CMD. -/
def commandTaken (i : Instr) (rest : List HostEvent) (s : State) : State :=
  { s with program := rest, wait := s.wait - 1, cmd := encode i }

theorem commandError_commandTaken (i : Instr) (rest : List HostEvent) (s : State) :
    commandError i (commandTaken i rest s) = commandError i s := by
  cases i <;> rfl

/-- The acceptance that the host's command word starts (20_memory.md R61). -/
theorem step_command {i : Instr} {rest : List HostEvent} {s : State} (hw : i.wellFormed = true) (hb : s.busy = false)
    (hp : s.program = .command i :: rest) :
    step s = .next (acceptance i (commandTaken i rest s)) := by
  rw [aStepRunsTheCommand.1 s offCmd (encode i) rest i hp wordOffset_offCmd hb (decodeOfEncode i hw)]
  exact exec_idle i hb

/-! ### Step 4: the wait -/

theorem wordOffset_offStatus : wordOffset offStatus = 0x008 := by decide

/-- Bit 0 of STATUS is BUSY (10_state.md R26). -/
theorem statusWord_and_one (s : State) : statusWord s &&& 1 = bitWord s.busy := by
  have key : ∀ (e : BitVec 4) (a b c : Bool),
      (e.setWidth 32 <<< 4 ||| bitWord a <<< 2 ||| bitWord b <<< 1 ||| bitWord c) &&& 1 = bitWord c := by decide
  exact key _ _ _ _

/-- The wait reads STATUS once a step, and ends when it finds BUSY = 0 (30_encoding.md R91). -/
theorem step_pollIdle {rest : List HostEvent} {s : State} (hp : s.program = .pollIdle :: rest)
    (hfree : s.busy = false ∨ s.wait ≠ 0) :
    step s = .next { s with
      program := if s.busy then s.program else rest
      hostReads := statusWord s :: s.hostReads
      wait := s.wait - 1 } := by
  obtain ⟨t, ht, hreads, hprogram, hrest⟩ := pollRepeatsUntilValue s offStatus 1 0 rest hp hfree
  rw [busRead_status s wordOffset_offStatus] at hreads hprogram
  rw [statusWord_and_one] at hprogram
  rw [ht, hrest, hreads, hprogram]
  cases s.busy <;> rfl

/-- In IDLE the wait is over after one read. -/
theorem steps_pollIdle_idle {s : State} (hp : s.program = [.pollIdle]) (hb : s.busy = false) :
    ∃ t, Steps 1 s t ∧ t.program = [] ∧ t.busy = false ∧ lastRead t = statusWord s ∧ t.hex = s.hex := by
  have hstep := step_pollIdle hp (.inl hb)
  rw [hb] at hstep
  exact ⟨_, .tail hstep (.refl _), rfl, rfl, rfl, rfl⟩

/-- While BUSY = 1 the wait goes on until the command completes, by induction on the host steps that fall before that. -/
theorem steps_pollIdle_busy {n : Nat} {i : Instr} {s : State} (hwait : s.wait = n) (hp : s.program = [.pollIdle])
    (hb : s.busy = true) (hi : latchedInstr s = some i) :
    ∃ hostReads wait, Steps (n + 1) s (completion i { s with hostReads := hostReads, wait := wait }) := by
  induction n generalizing s with
  | zero =>
    have hnone : .reset ∉ s.program := by simp [hp, HostEvent.pollIdle]
    exact ⟨s.hostReads, s.wait, steps_completion ((engineTurn_iff s).2 ⟨hb, .inr hwait⟩) hi hnone⟩
  | succ n ih =>
    have hstep := step_pollIdle hp (.inr (by omega))
    rw [if_pos hb] at hstep
    obtain ⟨hostReads, wait, hsteps⟩ := ih (s := { s with hostReads := _, wait := s.wait - 1 }) (by simp [hwait]) hp hb hi
    exact ⟨hostReads, wait, .tail hstep hsteps⟩

section
variable {i : Instr} {s : State} (hw : i.wellFormed = true) (hb : s.busy = false)
  (hp : s.program = [.command i, .pollIdle])
include hw hb hp

/-- A command that fails a check ends the wait with the code of its error in STATUS. -/
theorem call_rejected {e : CmdError} (he : commandError i s = some e) :
    ∃ n t, Steps n s t ∧ t.program = [] ∧ errOfStatus (lastRead t) = e.code := by
  have htaken : commandError i (commandTaken i [.pollIdle] s) = some e := (commandError_commandTaken i _ s).trans he
  obtain ⟨herr, hbusy, _⟩ := acceptance_flags i (s := commandTaken i [.pollIdle] s) hb
  rw [htaken] at herr hbusy
  obtain ⟨_, _, _, _, _, _, _, _, _, _, _, hprogram, _⟩ := acceptance_fields i (commandTaken i [.pollIdle] s)
  obtain ⟨t, hsteps, hdone, _, hread, _⟩ := steps_pollIdle_idle hprogram hbusy
  refine ⟨2, t, .tail (step_command hw hb hp) hsteps, hdone, ?_⟩
  rw [hread, errOfStatus_statusWord, herr]
  rfl

/-- A command that passes its checks ends the wait with ERR = 0 and the HEX of its completion, whatever the LATENCY. -/
theorem call_accepted (hpass : PassesChecks i s) :
    ∃ n t, Steps n s t ∧ t.program = [] ∧ t.busy = false ∧ errOfStatus (lastRead t) = 0 ∧
      ∃ v, t.hex = (completion i v).hex ∧ message v = memRead s 0 s.len.toNat := by
  have htaken : commandError i (commandTaken i [.pollIdle] s) = none :=
    (commandError_commandTaken i _ s).trans ((commandError_eq_none_iff i s).2 hpass)
  obtain ⟨herr, hbusy, _⟩ := acceptance_flags i (s := commandTaken i [.pollIdle] s) hb
  rw [htaken] at herr hbusy
  obtain ⟨_, _, _, _, _, _, _, _, hop, halg, _, hprogram, _⟩ := acceptance_fields i (commandTaken i [.pollIdle] s)
  obtain ⟨hostReads, wait, hrun⟩ := steps_pollIdle_busy rfl hprogram hbusy (latchedInstr_of_passes hpass hop halg)
  obtain ⟨_, _, _, _, _, _, hidle, _, herr', hprogram', _⟩ :=
    completion_fields i { acceptance i (commandTaken i [.pollIdle] s) with hostReads := hostReads, wait := wait }
  obtain ⟨t, hsteps, hdone, hbt, hread, hhex⟩ := steps_pollIdle_idle (hprogram'.trans hprogram) hidle
  refine ⟨_, t, .tail (step_command hw hb hp) (hrun.append hsteps), hdone, hbt, ?err, _, hhex, ?message⟩
  case err =>
    rw [hread, errOfStatus_statusWord, herr']
    exact herr
  case message => exact message_acceptance i (commandTaken i [.pollIdle] s)

end

/-! ### Step 5: the reads of the answer -/

theorem wordOffset_offHex {k : Nat} (hk : k < 16) : wordOffset (offHex (4 * k)) = 0x040 + 4 * k := by
  rw [wordOffset_eq, offHex, BitVec.toNat_ofNat, Nat.mod_eq_of_lt (by omega)]
  omega

/-- Reads in IDLE reach the host one by one, newest first. -/
theorem steps_reads {offs : List Word} {s : State} (hb : s.busy = false) (hp : s.program = offs.map .read) :
    ∃ u, Steps offs.length s u ∧ u.program = [] ∧ u.hostReads = (offs.map (busRead s)).reverse ++ s.hostReads := by
  induction offs generalizing s with
  | nil => exact ⟨s, .refl s, hp, rfl⟩
  | cons off offs ih =>
    have hstep : step s = hostStep (.read off) (takeEvent (offs.map .read) s) :=
      step_host hp (by simp) (engineTurn_idle hb)
    obtain ⟨u, hsteps, hprogram, hreads⟩ :=
      ih (s := returnRead (busRead s off) (takeEvent (offs.map .read) s)) hb rfl
    have hsame : busRead (returnRead (busRead s off) (takeEvent (offs.map .read) s)) = busRead s := rfl
    refine ⟨u, .tail hstep hsteps, hprogram, ?_⟩
    rw [hreads, hsame]
    simp

/-- The host reads the 64 characters of HEX and returns them. -/
theorem call_answer {t : State} (hb : t.busy = false) (herr : errOfStatus (lastRead t) = 0) :
    ∃ n u, Steps n { t with program := resultReads (lastRead t) } u ∧ u.program = [] ∧
      callAnswer (lastRead t) (u.hostReads.take 16).reverse = some (.ok t.hex.toList) := by
  have hstatus : resultReads (lastRead t) = ((List.range 16).map fun k => offHex (4 * k)).map .read := by
    rw [resultReads, if_pos herr, List.map_map]
    rfl
  obtain ⟨u, hsteps, hprogram, hreads⟩ := steps_reads (s := { t with program := resultReads (lastRead t) }) hb hstatus
  refine ⟨_, u, hsteps, hprogram, ?_⟩
  have hwords : (u.hostReads.take 16).reverse = (List.range 16).map (hexWord t) := by
    rw [hreads, List.take_left' (by simp), List.reverse_reverse, List.map_map]
    refine List.map_congr_left fun k hk => ?_
    have hk16 := List.mem_range.1 hk
    exact busRead_hex _ (by omega) (wordOffset_offHex hk16)
  rw [callAnswer_of_success herr, hwords, flatMap_hexWord]

/-! ### The contract -/

/-- An error is the answer, with nothing more to read. -/
theorem call_error {e : CmdError} {t : State} (h : errOfStatus (lastRead t) = e.code) :
    resultReads (lastRead t) = [] ∧ callAnswer (lastRead t) [] = some (.error e) := by
  have hne : errOfStatus (lastRead t) ≠ 0 := by
    rw [h]
    cases e <;> decide
  refine ⟨resultReads_of_error hne, ?_⟩
  rw [callAnswer_of_error hne, h, errorOfCode_code]
  rfl

/-- Settles O60: the parts of the run put end to end; a valid tag passes the checks, any other fails the last one, and a null
call fails the first. -/
theorem callReturnsItsAnswer : Obligations.CallReturnsItsAnswer := by
  intro s m tag hinv hb hfit htag
  have hw (srcv : Bool) : (Instr.digest srcv tag).wellFormed = true := decide_eq_true htag
  obtain ⟨hcap, _⟩ := hinv
  obtain ⟨n, t, hsteps, hprogram, hbt, hcapt, hlen, hmessage⟩ :=
    steps_to_command (i := .digest true tag) (s := { s with program := digestCall (some m) tag }) hb hcap hfit rfl
  have hrange : t.len.toNat ≤ t.msgcap.toNat := by
    rw [hlen, hcapt]
    exact hfit
  refine ⟨fun hvalid => ?valid, fun hne0 hne1 => ?invalid, ?null⟩
  case valid =>
    obtain ⟨n', t', hsteps', hdone, hbt', herr, v, hhex, hv⟩ := call_accepted (hw true) hbt hprogram ⟨rfl, hrange, hvalid⟩
    obtain ⟨k, u, hreads, hend, hanswer⟩ := call_answer hbt' herr
    refine ⟨_, t', k, u, hsteps.append hsteps', hdone, hreads, hend, ?_⟩
    have hchars : t'.hex = hexEncode (hashByTag tag m) := by
      rw [hhex, ← hmessage, ← hv]
      rfl
    rw [hanswer, hchars]
  case invalid =>
    have herror : commandError (.digest true tag) t = some .unsupportedAlgorithm := by
      simp [commandError, Nat.not_lt.2 hrange, validTag_iff, hne0, hne1]
    obtain ⟨n', t', hsteps', hdone, herr⟩ := call_rejected (hw true) hbt hprogram herror
    exact ⟨_, t', hsteps.append hsteps', hdone, call_error herr⟩
  case null =>
    obtain ⟨n', t', hsteps', hdone, herr⟩ := call_rejected (s := { s with program := digestCall none tag }) (hw false) hb rfl
      (e := .invalidInput) rfl
    exact ⟨n', t', hsteps', hdone, call_error herr⟩

end Sys2Proof.Machine
